-- ==== Sys2Proof/Word.lean ====
section
/-!
DEFINITION. The words of the IR receiver block: bytes, the 32-bit frame word and the two directions of the
sensor line (10_state R22 to R24, R27, R28, R30, R31).
-/

namespace Sys2Proof

/-- One byte: a DecodedFrame field, a command code, a store slot (10_state R24, R25, R35). -/
abbrev Byte := BitVec 8

/-- The FrameBuffer word (10_state R22). -/
abbrev FrameWord := BitVec 32

/-- The position of the next bit in the frame (10_state R23). -/
abbrev BitIndex := BitVec 5

/-- A transition of the sensor line, and the polarity EdgeCapture is armed for (10_state R30, 30_encoding R71).
Falling ends a space and begins a mark; Rising ends a mark. -/
inductive Direction where
  | falling
  | rising
  deriving DecidableEq, Repr

/-- DecoderState: "exactly one is active at any time" (10_state R27). -/
inductive DState where
  | awaitLeaderHigh
  | awaitLeaderLow
  | receivingData
  | awaitStop
  deriving DecidableEq, Repr

/-- The control state of the main loop (10_state R28). The unused code 7 has no constructor (30_encoding R82). -/
inductive MState where
  | boot
  | load
  | learnBegin
  | learnWait
  | learnHold
  | commit
  | normal
  deriving DecidableEq, Repr

/-- What the status indicator shows (10_state R31). The unused code 3 has no constructor (30_encoding R82). -/
inductive StatusMode where
  | off
  | blink
  | solid
  deriving DecidableEq, Repr

/-- The six timing windows (00_scope R5, R10). -/
inductive WindowName where
  | lh
  | ll
  | rp
  | mk
  | s0
  | s1
  deriving DecidableEq, Repr

end Sys2Proof
end

