-- ==== Sys2Proof/Config.lean ====
section
/-!
DEFINITION. The configuration record of 00_scope R5: the "compiled-in constants" of the block, and the constants
that R5 fixes for every configuration. A configuration is an argument of the model, carried in State and never
written (log 1).
-/

namespace Sys2Proof

/-- The two ends of a timing window. -/
structure Window where
  min : Nat
  max : Nat
  deriving DecidableEq, Repr

/-- The parameters of 00_scope R5. The six windows are held in microseconds, the normative quantity of the source's
table (90_conflicts C6); their bounds in ticks follow from `tickUs` by R6 (e) (log 3). -/
structure Config where
  /-- `K`: the number of output channels and of KeyMap entries. -/
  k : Nat
  /-- `TICK_US`: the period of the tick source in microseconds. -/
  tickUs : Nat
  /-- `TICK_BITS`: the width of the tick counter. -/
  tickBits : Nat
  /-- Leader mark window, microseconds. -/
  lhUs : Window
  /-- Leader space window, microseconds. -/
  llUs : Window
  /-- Repeat-burst space window, microseconds. -/
  rpUs : Window
  /-- Bit-mark and stop-mark window, microseconds. -/
  mkUs : Window
  /-- Zero-bit space window, microseconds. -/
  s0Us : Window
  /-- One-bit space window, microseconds. -/
  s1Us : Window
  /-- `RELEARN_CODE`: the reserved command code that re-enters learning. -/
  relearnCode : Byte
  /-- `BLINK_HALF_TICKS`: half period of the learning blink. -/
  blinkHalfTicks : Nat
  /-- `CONFIRM_TICKS`: length of the confirmation hold. -/
  confirmTicks : Nat
  /-- `LT_BITS`: width of the learning delay counter. -/
  ltBits : Nat
  deriving DecidableEq, Repr

/-- `ALL_OFF_CODE` (00_scope R5). -/
def Config.allOffCode : Byte := 0x02

/-- `SENT_UNINIT`, the value of store slot 0 that means uninitialized (00_scope R5). -/
def Config.sentUninit : Byte := 0xFF

/-- `SENT_INIT`, the value of store slot 0 that `LEARN_COMMIT` writes (00_scope R5). -/
def Config.sentInit : Byte := 0x00

/-- The spec's windows and tick (00_scope R5: 8.0 to 11.0 ms, 3.0 to 6.0 ms, 2.0 to 2.5 ms, 0.2 to 0.8 ms twice,
1.2 to 2.3 ms; `TICK_US` = 10, `TICK_BITS` = 16), with the five OPEN parameters as arguments. -/
def Config.spec (k : Nat) (relearnCode : Byte) (blinkHalfTicks confirmTicks ltBits : Nat) : Config where
  k := k
  tickUs := 10
  tickBits := 16
  lhUs := ⟨8000, 11000⟩
  llUs := ⟨3000, 6000⟩
  rpUs := ⟨2000, 2500⟩
  mkUs := ⟨200, 800⟩
  s0Us := ⟨200, 800⟩
  s1Us := ⟨1200, 2300⟩
  relearnCode := relearnCode
  blinkHalfTicks := blinkHalfTicks
  confirmTicks := confirmTicks
  ltBits := ltBits

/-- The configuration of 95_test_vectors: K = 4, `RELEARN_CODE` = 0x0D, `BLINK_HALF_TICKS` = 25000,
`CONFIRM_TICKS` = 50000, `LT_BITS` = 24. DESIGN CHOICE, unsafe (log 2): the spec leaves these five OPEN and gives the
values "for illustration only". No statement rests on it but those that name it. -/
def Config.illustrative : Config := Config.spec 4 0x0D 25000 50000 24

end Sys2Proof
end

