-- ==== Sys2Proof/Syntax.lean ====
section
/-!
DEFINITION. The operations of the block, one constructor per row of `spec/opcode_table.json` (30_encoding R78 to R80,
R91), in the table's order.
-/

namespace Sys2Proof

/-- The operation one atomic step performs. The block fetches no instructions (10_state R27): an operation is chosen
by the selector of 30_encoding R78 to R80. A decoder operation's operand `t` is the EdgeEvent's `intervalTicks`. -/
inductive Instr where
  /-- `TICK` (R100). -/
  | tick
  /-- `EDGE` of a transition with direction `d`; `tickInside` says that a tick pulse landed inside the step and was
  lost for the Timebase (R101, R103 outcome iii). -/
  | edge (d : Direction) (tickInside : Bool)
  /-- `EDGE_IGNORED` of a transition with direction `d` (R102). -/
  | edgeIgnored (d : Direction)
  /-- `RESET` (R190). -/
  | reset
  /-- `LDR_ARM` (R111). -/
  | ldrArm (t : Nat)
  /-- `LDR_MARK` (R112). -/
  | ldrMark (t : Nat)
  /-- `LDR_SPACE` (R113). -/
  | ldrSpace (t : Nat)
  /-- `RPT_SPACE` (R114). -/
  | rptSpace (t : Nat)
  /-- `BIT_MARK` (R115). -/
  | bitMark (t : Nat)
  /-- `BIT_ZERO` (R116). -/
  | bitZero (t : Nat)
  /-- `BIT_ONE` (R117). -/
  | bitOne (t : Nat)
  /-- `STOP_MARK` (R119). -/
  | stopMark (t : Nat)
  /-- `MISMATCH` of an event with direction `d` and interval `t` in decoder state `ds` (R120). -/
  | mismatch (ds : DState) (d : Direction) (t : Nat)
  /-- `BOOT_SELECT` (R131). -/
  | bootSelect
  /-- `KEY_LOAD` (R132). -/
  | keyLoad
  /-- `LEARN_BEGIN` (R133). -/
  | learnBegin
  /-- `LEARN_STORE` (R134). -/
  | learnStore
  /-- `LEARN_WAIT` (R135). -/
  | learnWait
  /-- `LEARN_HOLD` (R136). -/
  | learnHold
  /-- `LEARN_NEXT` (R137). -/
  | learnNext
  /-- `LEARN_COMMIT` (R138). -/
  | learnCommit
  /-- `POLL_IDLE` (R154). -/
  | pollIdle
  /-- `RELEARN` (R151). -/
  | relearn
  /-- `ALL_OFF` (R152). -/
  | allOff
  /-- `DISPATCH` (R153). -/
  | dispatch
  deriving DecidableEq, Repr

/-- The nine decoder operations as names, the result of the table of 30_encoding R78. -/
inductive DecoderOp where
  | ldrArm
  | ldrMark
  | ldrSpace
  | rptSpace
  | bitMark
  | bitZero
  | bitOne
  | stopMark
  | mismatch
  deriving DecidableEq, Repr

/-- The kinds of selector word (30_encoding R70, R91): the EdgeEvent selector `ev`, the main-loop selector `ms`, and
the port condition of the rows whose format is "none" (log 9). -/
inductive Format where
  | event
  | ev
  | ms
  deriving DecidableEq, Repr

/-- A selector word: what stands in the place of an instruction word (30_encoding R70, R91). -/
structure Selector where
  fmt : Format
  word : Nat
  deriving DecidableEq, Repr

/-- Why a selector word selects no operation. -/
inductive DecodeError where
  /-- A bit above the format's width is set. -/
  | reservedBits
  /-- An event word with no event in it. -/
  | noEvent
  /-- A tick together with a transition of the unarmed polarity: two operations, not one (60_exceptions R167 (b)). -/
  | twoOperations
  /-- The unused `mstate` code 7 (10_state R28). -/
  | unusedMstate
  deriving DecidableEq, Repr

end Sys2Proof
end

