-- ==== Sys2Proof/Machine/Operands.lean ====
section
/-!
DEFINITION. Operand assembly (30_encoding R71, R75 to R77): the binary codes, the window test, the conversion of
window bounds to ticks, bit and byte assembly of the frame, and store slot addresses.
-/

namespace Sys2Proof.Machine

open Sys2Proof

/-- Binary code of a direction: Falling 0, Rising 1 (30_encoding R71). -/
def dirCode : Direction → Nat
  | .falling => 0
  | .rising => 1

/-- The direction with a given code bit. -/
def dirOf (b : Bool) : Direction := if b then .rising else .falling

/-- Binary code of `dstate` (10_state R27). -/
def dstateCode : DState → Nat
  | .awaitLeaderHigh => 0
  | .awaitLeaderLow => 1
  | .receivingData => 2
  | .awaitStop => 3

/-- The decoder state with a given two-bit code (10_state R27: "the four values are all the values"). -/
def dstateOf (hi lo : Bool) : DState :=
  match hi, lo with
  | false, false => .awaitLeaderHigh
  | false, true => .awaitLeaderLow
  | true, false => .receivingData
  | true, true => .awaitStop

/-- Binary code of `mstate` (10_state R28). -/
def mstateCode : MState → Nat
  | .boot => 0
  | .load => 1
  | .learnBegin => 2
  | .learnWait => 3
  | .learnHold => 4
  | .commit => 5
  | .normal => 6

/-- The main-loop state with a given code; code 7 is unused (10_state R28). -/
def mstateOf : Nat → Option MState
  | 0 => some .boot
  | 1 => some .load
  | 2 => some .learnBegin
  | 3 => some .learnWait
  | 4 => some .learnHold
  | 5 => some .commit
  | 6 => some .normal
  | _ => none

/-- The line level a transition ends at: Rising ends at 1, Falling at 0 (10_state R33, R39; 40 R101). -/
def levelAfter : Direction → Bool
  | .falling => false
  | .rising => true

/-- A bound in microseconds as a number of ticks: round(bound / TICK_US), half up (00_scope R6 (e); log 3). -/
def ticksOf (tickUs us : Nat) : Nat := (2 * us + tickUs) / (2 * tickUs)

/-- A window's bounds in microseconds (90_conflicts C6). -/
def windowUs (c : Config) : WindowName → Window
  | .lh => c.lhUs
  | .ll => c.llUs
  | .rp => c.rpUs
  | .mk => c.mkUs
  | .s0 => c.s0Us
  | .s1 => c.s1Us

/-- A window's bounds in ticks (00_scope R5, R6 (e)). -/
def window (c : Config) (w : WindowName) : Window :=
  ⟨ticksOf c.tickUs (windowUs c w).min, ticksOf c.tickUs (windowUs c w).max⟩

/-- `inwin(t, W)`: `W_MIN ≤ t ∧ t ≤ W_MAX`, both bounds included (30_encoding R75). -/
def inwin (c : Config) (t : Nat) (w : WindowName) : Bool :=
  decide ((window c w).min ≤ t) && decide (t ≤ (window c w).max)

/-- `frame[i] <- b`: bit `i` written, the other 31 bits kept (10_state R22, 41 R118). -/
def setFrameBit (f : FrameWord) (i : Nat) (b : Bool) : FrameWord :=
  if b then f ||| (1#32 <<< i) else f &&& ~~~(1#32 <<< i)

/-- `frame[8j+7 : 8j]`, byte `j` of the frame (30_encoding R72, R76). -/
def frameByte (f : FrameWord) (j : Nat) : Byte := f.extractLsb' (8 * j) 8

/-- The store slot of channel `i`'s code (30_encoding R77). -/
def slotOf (i : Nat) : Nat := i + 1

/-- The store slot of the sentinel (30_encoding R77). -/
def sentinelSlot : Nat := 0

end Sys2Proof.Machine
end

