-- ==== Sys2Proof/Machine/Flags.lean ====
section
/-!
DEFINITION. The one flag computation of the block: the checksum that decides whether `ready` is set (10_state R29,
41 R119). There are no condition codes.
-/

namespace Sys2Proof.Machine

open Sys2Proof

/-- The `valid` predicate of 41 R119: both byte pairs are bitwise complements. -/
def checksumValid (addr addrN cmd cmdN : Byte) : Bool :=
  (addr ^^^ addrN == 0xFF#8) && (cmd ^^^ cmdN == 0xFF#8)

/-- `ready` after the stop mark: set when the checksum holds, unchanged when it does not (41 R119). -/
def readyAfterStop (ready : Bool) (addr addrN cmd cmdN : Byte) : Bool :=
  if checksumValid addr addrN cmd cmdN then true else ready

end Sys2Proof.Machine
end

