-- ==== Sys2Proof/Machine/Select.lean ====
section
/-!
DEFINITION. The operation map of 30_encoding R78 to R80: which operation the selector picks.
-/

namespace Sys2Proof.Machine

open Sys2Proof

/-- The decoder's window table (30_encoding R78, 41 R110). Total: the pairs with no row are `mismatch`
(30_encoding R81). -/
def selectDecoderOp (c : Config) (ds : DState) (d : Direction) (t : Nat) : DecoderOp :=
  match ds, d with
  | .awaitLeaderHigh, .falling => .ldrArm
  | .awaitLeaderHigh, .rising => if inwin c t .lh then .ldrMark else .mismatch
  | .awaitLeaderLow, .falling =>
    if inwin c t .ll then .ldrSpace else if inwin c t .rp then .rptSpace else .mismatch
  | .awaitLeaderLow, .rising => .mismatch
  | .receivingData, .rising => if inwin c t .mk then .bitMark else .mismatch
  | .receivingData, .falling =>
    if inwin c t .s0 then .bitZero else if inwin c t .s1 then .bitOne else .mismatch
  | .awaitStop, .rising => if inwin c t .mk then .stopMark else .mismatch
  | .awaitStop, .falling => .mismatch

/-- The operation with the operands of the event that selected it. -/
def decoderInstr (ds : DState) (d : Direction) (t : Nat) : DecoderOp → Instr
  | .ldrArm => .ldrArm t
  | .ldrMark => .ldrMark t
  | .ldrSpace => .ldrSpace t
  | .rptSpace => .rptSpace t
  | .bitMark => .bitMark t
  | .bitZero => .bitZero t
  | .bitOne => .bitOne t
  | .stopMark => .stopMark t
  | .mismatch => .mismatch ds d t

/-- The main loop's operation (30_encoding R79, 43 R150), from `mstate` and the further conditions: `ready`, whether
`f_cmd` is `RELEARN_CODE`, whether it is `ALL_OFF_CODE`, and whether `ltimer` is not zero. Within one state the rows
are tested in the order listed. -/
def selectMainOp (m : MState) (ready isRelearn isAllOff timing : Bool) : Instr :=
  match m with
  | .boot => .bootSelect
  | .load => .keyLoad
  | .learnBegin => .learnBegin
  | .learnWait => if ready && !isRelearn then .learnStore else .learnWait
  | .learnHold => if timing then .learnHold else .learnNext
  | .commit => .learnCommit
  | .normal =>
    if !ready then .pollIdle
    else if isRelearn then .relearn
    else if isAllOff then .allOff
    else .dispatch

/-- The event rows (30_encoding R80): `rst` overrides everything; a transition of the armed polarity is `EDGE`, with
or without a tick inside it (40 R103); one of the other polarity is `EDGE_IGNORED`; a tick alone is `TICK`. -/
def selectEvent (rst tickEn trans : Bool) (d armed : Direction) : Except DecodeError Instr :=
  if rst then .ok .reset
  else if trans then
    if d = armed then .ok (.edge d tickEn)
    else if tickEn then .error .twoOperations
    else .ok (.edgeIgnored d)
  else if tickEn then .ok .tick
  else .error .noEvent

end Sys2Proof.Machine
end

