-- ==== Sys2Proof/WellFormed.lean ====
section
/-!
DEFINITION. Well-formed configurations (00_scope R5, R6) and well-formed operations (30_encoding R78): a decoder
operation's interval fits the tick counter and lies in the window of its row.
-/

namespace Sys2Proof

open Sys2Proof.Machine

/-- The constraints of 00_scope R5 and R6 on a configuration. "A model refuses a configuration that breaks one." -/
abbrev Config.valid (c : Config) : Prop :=
  (1 ≤ c.k ∧ c.k ≤ 255) ∧
  (1 ≤ c.tickUs ∧ c.tickUs ≤ 200) ∧
  ((window c .lh).min ≤ (window c .lh).max ∧ (window c .ll).min ≤ (window c .ll).max ∧
    (window c .rp).min ≤ (window c .rp).max ∧ (window c .mk).min ≤ (window c .mk).max ∧
    (window c .s0).min ≤ (window c .s0).max ∧ (window c .s1).min ≤ (window c .s1).max) ∧
  ((window c .rp).max < (window c .ll).min ∧ (window c .s0).max < (window c .s1).min) ∧
  (window c .lh).max < 2 ^ c.tickBits - 1 ∧
  c.relearnCode ≠ Config.allOffCode ∧
  (1 ≤ c.blinkHalfTicks ∧ 1 ≤ c.confirmTicks) ∧
  (c.blinkHalfTicks < 2 ^ c.ltBits ∧ c.confirmTicks < 2 ^ c.ltBits)

/-- An interval the tick counter can hold (30_encoding R71). -/
def intervalFits (c : Config) (t : Nat) : Bool := decide (t < 2 ^ c.tickBits)

/-- An operation whose operands are those its row of 30_encoding R78 admits. -/
def wellFormed (c : Config) : Instr → Bool
  | .tick => true
  | .edge _ _ => true
  | .edgeIgnored _ => true
  | .reset => true
  | .ldrArm t => intervalFits c t
  | .ldrMark t => intervalFits c t && inwin c t .lh
  | .ldrSpace t => intervalFits c t && inwin c t .ll
  | .rptSpace t => intervalFits c t && inwin c t .rp
  | .bitMark t => intervalFits c t && inwin c t .mk
  | .bitZero t => intervalFits c t && inwin c t .s0
  | .bitOne t => intervalFits c t && inwin c t .s1
  | .stopMark t => intervalFits c t && inwin c t .mk
  | .mismatch ds d t => intervalFits c t && decide (selectDecoderOp c ds d t = .mismatch)
  | .bootSelect => true
  | .keyLoad => true
  | .learnBegin => true
  | .learnStore => true
  | .learnWait => true
  | .learnHold => true
  | .learnNext => true
  | .learnCommit => true
  | .pollIdle => true
  | .relearn => true
  | .allOff => true
  | .dispatch => true

end Sys2Proof
end

