-- ==== Sys2Proof/Decode.lean ====
section
/-!
DEFINITION. Decoding of selector words (30_encoding R78 to R80, R91) and, after it, the encoder. The EV word is R91's
`dstate`, `direction`, `intervalTicks` from the top down; the MS word is R91's 3-bit `mstate` code with R79's further
conditions in the bits above it; the event word holds the port condition of R80. The condition bits and the event
word are the model's layout (DESIGN CHOICE, safe: log 9).
-/

namespace Sys2Proof

open Sys2Proof.Machine

/-- Event word: bit 0 a tick pulse, bit 1 a transition, bit 2 its direction, bit 3 the armed polarity, bit 4 `rst`. -/
def decodeEvent (w : Nat) : Except DecodeError Instr :=
  if w < 32 then
    selectEvent (w.testBit 4) (w.testBit 0) (w.testBit 1) (dirOf (w.testBit 2)) (dirOf (w.testBit 3))
  else .error .reservedBits

/-- EV word (R91): `sel[2:0]` above the `TICK_BITS` interval bits; 19 bits when `TICK_BITS` = 16. -/
def decodeEv (c : Config) (w : Nat) : Except DecodeError Instr :=
  let t := w % 2 ^ c.tickBits
  let sel := w / 2 ^ c.tickBits
  if sel < 8 then
    let ds := dstateOf (sel.testBit 2) (sel.testBit 1)
    let d := dirOf (sel.testBit 0)
    .ok (decoderInstr ds d t (selectDecoderOp c ds d t))
  else .error .reservedBits

/-- MS word: bits 2:0 the `mstate` code (R91), bit 3 `ready`, bit 4 `f_cmd` = `RELEARN_CODE`, bit 5 `f_cmd` =
`ALL_OFF_CODE`, bit 6 `ltimer` ≠ 0 (R79). -/
def decodeMs (w : Nat) : Except DecodeError Instr :=
  if w < 128 then
    match mstateOf (w % 8) with
    | some m => .ok (selectMainOp m (w.testBit 3) (w.testBit 4) (w.testBit 5) (w.testBit 6))
    | none => .error .unusedMstate
  else .error .reservedBits

/-- The decoder: total on every selector word, rejecting by name. -/
def decode (c : Config) (x : Selector) : Except DecodeError Instr :=
  match x.fmt with
  | .event => decodeEvent x.word
  | .ev => decodeEv c x.word
  | .ms => decodeMs x.word

/-- The format of a table row by its size in bits, in whole bytes: 0 for the event rows (R91: "their match and mask
are 0"), 8 for the 3-bit MS rows, 24 for the 19-bit EV rows (log 9). -/
def formatOf (nbits : Nat) : Format :=
  if nbits = 0 then .event else if nbits ≤ 8 then .ms else .ev

/-- The operation the decoder reads from a word of the operation table, at the spec's own windows (00_scope R5). -/
def decodeTableWord (nbits w : Nat) : Option Instr :=
  match decode Config.illustrative ⟨formatOf nbits, w⟩ with
  | .ok i => some i
  | .error _ => none

/-! ### The encoder -/

/-- The event word of a port condition. -/
def eventWord (rst tickEn trans : Bool) (d armed : Direction) : Nat :=
  tickEn.toNat + 2 * trans.toNat + 4 * dirCode d + 8 * dirCode armed + 16 * rst.toNat

/-- The EV word of a decoder state, a direction and an interval (R91). -/
def evWord (c : Config) (ds : DState) (d : Direction) (t : Nat) : Nat :=
  (2 * dstateCode ds + dirCode d) * 2 ^ c.tickBits + t

/-- The MS word of a main-loop state and its conditions. -/
def msWord (m : MState) (ready isRelearn isAllOff timing : Bool) : Nat :=
  mstateCode m + 8 * ready.toNat + 16 * isRelearn.toNat + 32 * isAllOff.toNat + 64 * timing.toNat

/-- The opposite polarity. -/
def Direction.flip : Direction → Direction
  | .falling => .rising
  | .rising => .falling

/-- The selector word of an operation: for a decoder operation the row of R78 with its interval, for a main-loop
operation the row of R79 with the conditions it needs and no others. -/
def encode (c : Config) : Instr → Selector
  | .tick => ⟨.event, eventWord false true false .falling .falling⟩
  | .edge d tickInside => ⟨.event, eventWord false tickInside true d d⟩
  | .edgeIgnored d => ⟨.event, eventWord false false true d d.flip⟩
  | .reset => ⟨.event, eventWord true false false .falling .falling⟩
  | .ldrArm t => ⟨.ev, evWord c .awaitLeaderHigh .falling t⟩
  | .ldrMark t => ⟨.ev, evWord c .awaitLeaderHigh .rising t⟩
  | .ldrSpace t => ⟨.ev, evWord c .awaitLeaderLow .falling t⟩
  | .rptSpace t => ⟨.ev, evWord c .awaitLeaderLow .falling t⟩
  | .bitMark t => ⟨.ev, evWord c .receivingData .rising t⟩
  | .bitZero t => ⟨.ev, evWord c .receivingData .falling t⟩
  | .bitOne t => ⟨.ev, evWord c .receivingData .falling t⟩
  | .stopMark t => ⟨.ev, evWord c .awaitStop .rising t⟩
  | .mismatch ds d t => ⟨.ev, evWord c ds d t⟩
  | .bootSelect => ⟨.ms, msWord .boot false false false false⟩
  | .keyLoad => ⟨.ms, msWord .load false false false false⟩
  | .learnBegin => ⟨.ms, msWord .learnBegin false false false false⟩
  | .learnStore => ⟨.ms, msWord .learnWait true false false false⟩
  | .learnWait => ⟨.ms, msWord .learnWait false false false false⟩
  | .learnHold => ⟨.ms, msWord .learnHold false false false true⟩
  | .learnNext => ⟨.ms, msWord .learnHold false false false false⟩
  | .learnCommit => ⟨.ms, msWord .commit false false false false⟩
  | .pollIdle => ⟨.ms, msWord .normal false false false false⟩
  | .relearn => ⟨.ms, msWord .normal true true false false⟩
  | .allOff => ⟨.ms, msWord .normal true false true false⟩
  | .dispatch => ⟨.ms, msWord .normal true false false false⟩

end Sys2Proof
end

