-- ==== Sys2Proof/Machine/State.lean ====
section
/-!
DEFINITION. The state of the block (10_state R20 to R35, R40) as plain data, what the environment does next, the
reasons a step can stop, and the state after reset.
-/

namespace Sys2Proof.Machine

open Sys2Proof

/-- The PersistentStore: slot and byte pairs, slots strictly rising, no slot listed that holds what an unlisted slot
reads as (10_state R35, 20_memory R50 to R52; log 12). -/
abbrev Memory := List Host.Cell

/-- What an unlisted slot reads as: 0xFF, the content of a never-used store (70 R192 (c), 93 G3). DESIGN CHOICE, unsafe
(log 12): the spec makes the contents at power-on an input of the run. -/
def unlistedByte : Byte := 0xFF

/-- The canonical form: slots strictly rising, each an 8-bit slot number (10_state R39 `ps_addr`), none holding the
unlisted byte. -/
abbrev Memory.wf (m : Memory) : Prop :=
  (m.map Prod.fst).Pairwise (· < ·) ∧ ∀ c ∈ m, c.1 < 256 ∧ c.2 ≠ unlistedByte

/-- The three outcomes of 40 R103 for a tick pulse that arrives together with a captured transition. -/
inductive TickOutcome where
  /-- (i): the decoder sees t + 1, `tick` = 0 afterwards. -/
  | tickFirst
  /-- (ii): the decoder sees t, `tick` = 1 afterwards. -/
  | edgeFirst
  /-- (iii): the decoder sees t, `tick` = 0 afterwards; the clocked form takes this one. -/
  | tickLost
  deriving DecidableEq, Repr

/-- What happens next, as the stimulus notation of 30_encoding R84 writes it, with the two composite forms of 40 R103
and R104. A list of these is a "program" of R84 (log 4). -/
inductive Event where
  /-- `T`: one pulse of the tick source. -/
  | tick
  /-- `FALL` (`line .falling`) or `RISE` (`line .rising`). -/
  | line (d : Direction)
  /-- A tick pulse and a transition together, with the outcome that occurs (40 R103, 60 R167). -/
  | together (d : Direction) (o : TickOutcome)
  /-- `M`: one main-loop step. -/
  | main
  /-- `RESET`. -/
  | reset
  /-- One clock of the clocked form with the port levels `rst`, `tick_en`, `ir_in` (40 R104, 10_state R39). -/
  | clock (rst tickEn irIn : Bool)
  deriving DecidableEq, Repr

/-- One atomic step of one agent, or reset (00_scope R7). `edge d tickInside` is a transition of direction `d`;
`tickInside` is true when a tick pulse landed inside the step (40 R103 outcome iii). -/
inductive Atom where
  | tick
  | edge (d : Direction) (tickInside : Bool)
  | main
  | reset
  deriving DecidableEq, Repr

/-- The complete state (10_state R20) with the two fields that are the model's own, `cfg` and `pending`. -/
structure State where
  /-- The configuration record (00_scope R5, R8): carried here, written by no step (log 1). -/
  cfg : Config
  /-- `tick` (R21), below 2^TICK_BITS. -/
  tick : Nat
  /-- `frame` (R22). -/
  frame : FrameWord
  /-- `bitIndex` (R23). -/
  bitIndex : BitIndex
  /-- `f_addr` (R24). -/
  fAddr : Byte
  /-- `f_addr_n` (R24). -/
  fAddrN : Byte
  /-- `f_cmd` (R24). -/
  fCmd : Byte
  /-- `f_cmd_n` (R24). -/
  fCmdN : Byte
  /-- `KeyMap[0..K-1]` (R25). -/
  keyMap : List Byte
  /-- `ch[0..K-1]` (R26), true = on. -/
  ch : List Bool
  /-- `dstate` (R27). -/
  dstate : DState
  /-- `mstate` (R28). -/
  mstate : MState
  /-- `lidx` (R28), below K. -/
  lidx : Nat
  /-- `ready` (R29). -/
  ready : Bool
  /-- `armed` (R30). -/
  armed : Direction
  /-- `status_mode` (R31). -/
  statusMode : StatusMode
  /-- `blink_phase` (R31), true = lit. -/
  blinkPhase : Bool
  /-- `ltimer` (R32), below 2^LT_BITS. -/
  ltimer : Nat
  /-- `ir_prev` (R33), true = the idle (space) level. -/
  irPrev : Bool
  /-- The PersistentStore (R35). -/
  store : Memory
  /-- The environment's coming events (00_scope R8), the model's own field (log 4). -/
  pending : List Event
  deriving DecidableEq, Repr

/-- Why a step stops with a fault. -/
inductive Fault where
  /-- Raised by a store write to a slot above K, which the spec says no operation addresses (10_state R35, 20_memory
  R51). Only `LEARN_STORE` with `lidx` ≥ K could make one; no reachable state has such a `lidx` (10_state R38 (d)).
  Safe: the hardware has no such step (log 13). -/
  | noSuchSlot (slot : Nat)
  deriving DecidableEq, Repr

/-- Why a step is refused. -/
inductive Refusal where
  /-- Raised by an arm of `exec` whose operation has no meaning yet; no arm does. Safe. -/
  | notModelled (mnemonic : String)
  /-- Raised by `step` in a state whose configuration breaks 00_scope R5 or R6: "a model refuses a configuration that
  breaks one". Safe. -/
  | badConfig
  /-- Raised by `step` if the selector word of the state selected no operation. No state with a valid configuration
  has such a word. Safe. -/
  | undecodable (e : DecodeError)
  deriving DecidableEq, Repr

/-- The reset values of 10_state R40, for a configuration, a launch store and an environment. -/
def State.resetWith (cfg : Config) (store : Memory) (pending : List Event) : State where
  cfg := cfg
  tick := 0
  frame := 0
  bitIndex := 0
  fAddr := 0
  fAddrN := 0
  fCmd := 0
  fCmdN := 0
  keyMap := List.replicate cfg.k 0
  ch := List.replicate cfg.k false
  dstate := .awaitLeaderHigh
  mstate := .boot
  lidx := 0
  ready := false
  armed := .falling
  statusMode := .off
  blinkPhase := false
  ltimer := 0
  irPrev := true
  store := store
  pending := pending

/-- The machine right after reset (10_state R40), with the configuration of 95_test_vectors (log 2), a never-used
store (log 12) and no event placed (log 4). -/
def State.reset : State := State.resetWith Config.illustrative [] []

end Sys2Proof.Machine
end

