-- ==== Sys2Proof/Machine/Ops.lean ====
section
/-!
DEFINITION. The operations shared by the meanings: the store's two primitives (20_memory R52), the local reset that
handles an error condition (41 R120, 00_scope R10), its names, the delay counter's decrement, and `SHIFT_IN`.
-/

namespace Sys2Proof.Machine

open Sys2Proof

/-- The outcome of one operation. -/
abbrev Result := Host.Outcome State Fault Refusal

/-- `MemRead(addr, 1)` (20_memory R52). -/
def memRead : Memory → Nat → Byte
  | [], _ => unlistedByte
  | (b, v) :: rest, a => if b = a then v else memRead rest a

/-- `MemWrite(addr, 1, v)` (20_memory R52), keeping the canonical form. -/
def memWrite : Memory → Nat → Byte → Memory
  | [], a, v => if v = unlistedByte then [] else [(a, v)]
  | (b, w) :: rest, a, v =>
    if a < b then (if v = unlistedByte then (b, w) :: rest else (a, v) :: (b, w) :: rest)
    else if a = b then (if v = unlistedByte then rest else (a, v) :: rest)
    else (b, w) :: memWrite rest a v

/-- A store write by an operation: slots 0 to K exist for the block (10_state R35), a slot above K faults (log 13). -/
def writeSlot (s : State) (a : Nat) (v : Byte) : Except Fault State :=
  if a ≤ s.cfg.k then .ok { s with store := memWrite s.store a v } else .error (.noSuchSlot a)

/-- The bytes of slots 1..K in channel order (42 R132: the load reads no slot above K). -/
def readKeys (m : Memory) (k : Nat) : List Byte := (List.range k).map fun j => memRead m (slotOf j)

/-- A state change as an outcome. -/
def done (s : State) : Result := .next s

/-- The outcome of an operation that makes a store write. -/
def ofWrite : Except Fault State → Result
  | .ok s => .next s
  | .error f => .fault f

/-- The delay counter one tick later: it stops at 0 (00_scope R11 (c), 40 R100). -/
def countDown (n : Nat) : Nat := if n = 0 then 0 else n - 1

/-- The decoder's local reset, the handling of every anomaly in it: "`AwaitLeaderHigh` with Falling armed", bitIndex 0
(41 R119, R120). Nothing is saved, counted or output (60 R168). -/
def decoderReset (s : State) : State :=
  { s with dstate := .awaitLeaderHigh, armed := .falling, bitIndex := 0 }

/-- `raise TimingMismatch`: the local reset and nothing else (00_scope R10, 60 R160). -/
def raiseTimingMismatch (s : State) : State := decoderReset s

/-- `raise ChecksumFailure`: no frame is published, the decoder resets normally (60 R161). -/
def raiseChecksumFailure (s : State) : State := decoderReset s

/-- `UninitializedStore`: "a recognized startup condition that routes control into Learning mode" (60 R162). -/
def raiseUninitializedStore (s : State) : State := { s with lidx := 0, mstate := .learnBegin }

/-- The three conditions of the error taxonomy, with no numeric meaning (60 R163). -/
inductive Condition where
  | timingMismatch
  | checksumFailure
  | uninitializedStore
  deriving DecidableEq, Repr

/-- `SHIFT_IN(b)` (41 R118): the bit is placed, a finished byte is snapshotted from the frame with the bit in it, the
32nd bit leaves ReceivingData, `bitIndex` counts modulo 32 and Rising is armed. -/
def shiftIn (b : Bool) (s : State) : State :=
  let i := s.bitIndex.toNat
  let f := setFrameBit s.frame i b
  { s with
    frame := f
    fAddr := if i = 7 then frameByte f 0 else s.fAddr
    fAddrN := if i = 15 then frameByte f 1 else s.fAddrN
    fCmd := if i = 23 then frameByte f 2 else s.fCmd
    fCmdN := if i = 31 then frameByte f 3 else s.fCmdN
    dstate := if i = 31 then .awaitStop else s.dstate
    bitIndex := s.bitIndex + 1
    armed := .rising }

end Sys2Proof.Machine
end

