-- ==== Sys2Proof/Machine/CommandDispatcher.lean ====
section
/-!
DEFINITION. The CommandDispatcher operations of Normal mode (43 R151 to R154).
-/

namespace Sys2Proof.Machine

open Sys2Proof

/-- `POLL_IDLE` (R154): no register is written. -/
def execPollIdle (s : State) : Result := done s

/-- `RELEARN` (R151): the frame is consumed and learning restarts at channel 0; channels, KeyMap, status and store
keep their values. -/
def execRelearn (s : State) : Result := done { s with ready := false, lidx := 0, mstate := .learnBegin }

/-- `ALL_OFF` (R152): every channel off. -/
def execAllOff (s : State) : Result :=
  done { s with ch := s.ch.map fun _ => false, ready := false }

/-- `DISPATCH` (R153): every channel whose learned code is the command toggles. -/
def execDispatch (s : State) : Result :=
  done { s with
    ch := s.ch.mapIdx fun i level => if s.keyMap[i]? = some s.fCmd then !level else level
    ready := false }

end Sys2Proof.Machine
end

