-- ==== Sys2Proof/Machine/ProtocolDecoder.lean ====
section
/-!
DEFINITION. The nine decoder operations (41 R111 to R120). Each runs inside an `EDGE` step, which has already taken
the interval and zeroed `tick`; the interval `t` only selects the operation (30_encoding R75, R78).
-/

namespace Sys2Proof.Machine

open Sys2Proof

/-- `LDR_ARM` (R111): the start of a burst while idle. -/
def execLdrArm (_t : Nat) (s : State) : Result := done { s with armed := .rising }

/-- `LDR_MARK` (R112): the leader mark accepted. -/
def execLdrMark (_t : Nat) (s : State) : Result := done { s with dstate := .awaitLeaderLow, armed := .falling }

/-- `LDR_SPACE` (R113): the leader space accepted; a frame begins. -/
def execLdrSpace (_t : Nat) (s : State) : Result :=
  done { s with dstate := .receivingData, armed := .rising, bitIndex := 0 }

/-- `RPT_SPACE` (R114): the repeat burst detected and ignored; no register is written by the decoder. -/
def execRptSpace (_t : Nat) (s : State) : Result := done s

/-- `BIT_MARK` (R115): the mark of a data bit confirmed. -/
def execBitMark (_t : Nat) (s : State) : Result := done { s with armed := .falling }

/-- `BIT_ZERO` (R116). -/
def execBitZero (_t : Nat) (s : State) : Result := done (shiftIn false s)

/-- `BIT_ONE` (R117). -/
def execBitOne (_t : Nat) (s : State) : Result := done (shiftIn true s)

/-- `STOP_MARK` (R119): the checksum is evaluated, a valid frame is published, the decoder resets normally. -/
def execStopMark (_t : Nat) (s : State) : Result :=
  if checksumValid s.fAddr s.fAddrN s.fCmd s.fCmdN then
    done (decoderReset { s with ready := readyAfterStop s.ready s.fAddr s.fAddrN s.fCmd s.fCmdN })
  else done (raiseChecksumFailure s)

/-- `MISMATCH` (R120): the local reset on a timing mismatch. -/
def execMismatch (_ds : DState) (_d : Direction) (_t : Nat) (s : State) : Result := done (raiseTimingMismatch s)

/-- `DECODE` (R110): exactly one of the nine operations runs, the one the window table selects. -/
def runDecoder (d : Direction) (t : Nat) (s : State) : Result :=
  match selectDecoderOp s.cfg s.dstate d t with
  | .ldrArm => execLdrArm t s
  | .ldrMark => execLdrMark t s
  | .ldrSpace => execLdrSpace t s
  | .rptSpace => execRptSpace t s
  | .bitMark => execBitMark t s
  | .bitZero => execBitZero t s
  | .bitOne => execBitOne t s
  | .stopMark => execStopMark t s
  | .mismatch => execMismatch s.dstate d t s

end Sys2Proof.Machine
end

