-- ==== Sys2Proof/Machine/EdgeCapture.lean ====
section
/-!
DEFINITION. Timebase and EdgeCapture: `TICK`, `EDGE`, `EDGE_IGNORED` (40 R100 to R103).
-/

namespace Sys2Proof.Machine

open Sys2Proof

/-- `TICK` (R100): the Timebase wraps at its bound, the delay counter stops at 0. -/
def execTick (s : State) : Result :=
  done { s with tick := (s.tick + 1) % 2 ^ s.cfg.tickBits, ltimer := countDown s.ltimer }

/-- `EDGE` (R101): the interval is the counter before the step and the direction is the armed polarity, not the pin
level; the counter is zeroed, the line level recorded, and the decoder runs one operation in the same step. A tick
that lands inside the step is lost for the Timebase and still counts for `ltimer` (R103 outcome iii). -/
def execEdge (d : Direction) (tickInside : Bool) (s : State) : Result :=
  runDecoder s.armed s.tick
    { s with
      tick := 0
      irPrev := levelAfter d
      ltimer := if tickInside then countDown s.ltimer else s.ltimer }

/-- `EDGE_IGNORED` (R102): only the line level is recorded. -/
def execEdgeIgnored (d : Direction) (s : State) : Result := done { s with irPrev := levelAfter d }

end Sys2Proof.Machine
end

