-- ==== Sys2Proof/Machine/KeyMapper.lean ====
section
/-!
DEFINITION. The KeyMapper operations (42 R131 to R138). Indexing a register array at or above its length reads or
writes nothing; no reachable state does so (10_state R38 (d); log 18).
-/

namespace Sys2Proof.Machine

open Sys2Proof

/-- `BOOT_SELECT` (R131): slot 0 = 0xFF enters Learning, anything else loads. -/
def execBootSelect (s : State) : Result :=
  if memRead s.store sentinelSlot = Config.sentUninit then done (raiseUninitializedStore s)
  else done { s with mstate := .load }

/-- `KEY_LOAD` (R132): all K entries from the store, no check of the bytes, no frame consumed. -/
def execKeyLoad (s : State) : Result :=
  done { s with keyMap := readKeys s.store s.cfg.k, statusMode := .solid, mstate := .normal }

/-- `LEARN_BEGIN` (R133): the channel-`lidx` indicator on, the blink started in its lit half. -/
def execLearnBegin (s : State) : Result :=
  done { s with
    ch := s.ch.set s.lidx true
    statusMode := .blink
    blinkPhase := true
    ltimer := s.cfg.blinkHalfTicks
    mstate := .learnWait }

/-- `LEARN_STORE` (R134): the command goes to `KeyMap[lidx]` and to store slot `lidx`+1; `ready` stays set. The command
is not checked, so a frame with command 0xFF writes 0xFF to the slot, although R138 says in passing that the block never
writes 0xFF anywhere: R134's pseudocode is followed (DESIGN CHOICE, unsafe: log 23). -/
def execLearnStore (s : State) : Result :=
  ofWrite (writeSlot
    { s with
      keyMap := s.keyMap.set s.lidx s.fCmd
      statusMode := .solid
      ltimer := s.cfg.confirmTicks
      mstate := .learnHold }
    (slotOf s.lidx) s.fCmd)

/-- `LEARN_WAIT` (R135): the blink toggles when its half period is over; no frame is consumed. -/
def execLearnWait (s : State) : Result :=
  if s.ltimer = 0 then done { s with blinkPhase := !s.blinkPhase, ltimer := s.cfg.blinkHalfTicks }
  else done s

/-- `LEARN_HOLD` (R136): nothing is written; `TICK` counts the hold down. -/
def execLearnHold (s : State) : Result := done s

/-- `LEARN_NEXT` (R137): the indicator off, the consumed frame cleared, on to the next channel or to Commit. -/
def execLearnNext (s : State) : Result :=
  if s.lidx + 1 < s.cfg.k then
    done { s with ch := s.ch.set s.lidx false, ready := false, lidx := s.lidx + 1, mstate := .learnBegin }
  else
    done { s with ch := s.ch.set s.lidx false, ready := false, lidx := 0, mstate := .commit }

/-- `LEARN_COMMIT` (R138): slot 0 becomes initialized; the only write of slot 0. -/
def execLearnCommit (s : State) : Result :=
  ofWrite (writeSlot { s with statusMode := .solid, mstate := .normal } sentinelSlot Config.sentInit)

end Sys2Proof.Machine
end

