-- ==== Sys2Proof/Machine/Reset.lean ====
section
/-!
DEFINITION. `RESET` (70 R190).
-/

namespace Sys2Proof.Machine

open Sys2Proof

/-- `RESET` (R190): every register takes its value of 10_state R40; the store is not written. The configuration and
the environment's coming events are no registers and stay (log 21). -/
def execReset (s : State) : Result :=
  done { s with
    dstate := .awaitLeaderHigh
    armed := .falling
    tick := 0
    frame := 0
    bitIndex := 0
    fAddr := 0
    fAddrN := 0
    fCmd := 0
    fCmdN := 0
    ready := false
    keyMap := List.replicate s.cfg.k 0
    ch := List.replicate s.cfg.k false
    mstate := .boot
    lidx := 0
    statusMode := .off
    blinkPhase := false
    ltimer := 0
    irPrev := true }

end Sys2Proof.Machine
end

