-- ==== Sys2Proof/Machine/Dispatch.lean ====
section
/-!
DEFINITION. One arm per operation. `exec` gives an operation's effect as its pseudocode does; that an operation runs
only where its selector holds is the step's doing (log 11).
-/

namespace Sys2Proof.Machine

open Sys2Proof

def exec (i : Instr) (s : State) : Host.Outcome State Fault Refusal :=
  match i with
  | .tick => Sys2Proof.Machine.execTick s
  | .edge d tickInside => Sys2Proof.Machine.execEdge d tickInside s
  | .edgeIgnored d => Sys2Proof.Machine.execEdgeIgnored d s
  | .reset => Sys2Proof.Machine.execReset s
  | .ldrArm t => Sys2Proof.Machine.execLdrArm t s
  | .ldrMark t => Sys2Proof.Machine.execLdrMark t s
  | .ldrSpace t => Sys2Proof.Machine.execLdrSpace t s
  | .rptSpace t => Sys2Proof.Machine.execRptSpace t s
  | .bitMark t => Sys2Proof.Machine.execBitMark t s
  | .bitZero t => Sys2Proof.Machine.execBitZero t s
  | .bitOne t => Sys2Proof.Machine.execBitOne t s
  | .stopMark t => Sys2Proof.Machine.execStopMark t s
  | .mismatch ds d t => Sys2Proof.Machine.execMismatch ds d t s
  | .bootSelect => Sys2Proof.Machine.execBootSelect s
  | .keyLoad => Sys2Proof.Machine.execKeyLoad s
  | .learnBegin => Sys2Proof.Machine.execLearnBegin s
  | .learnStore => Sys2Proof.Machine.execLearnStore s
  | .learnWait => Sys2Proof.Machine.execLearnWait s
  | .learnHold => Sys2Proof.Machine.execLearnHold s
  | .learnNext => Sys2Proof.Machine.execLearnNext s
  | .learnCommit => Sys2Proof.Machine.execLearnCommit s
  | .pollIdle => Sys2Proof.Machine.execPollIdle s
  | .relearn => Sys2Proof.Machine.execRelearn s
  | .allOff => Sys2Proof.Machine.execAllOff s
  | .dispatch => Sys2Proof.Machine.execDispatch s

end Sys2Proof.Machine
end

