-- ==== Sys2Proof/Machine/Fetch.lean ====
section
/-!
DEFINITION. Which agent moves next and which operation its step selects: the expansion of an event into atomic steps
(40 R103, R104), the selector word the state presents (30_encoding R78 to R80), and the placing of one selector word
in a state.
-/

namespace Sys2Proof.Machine

open Sys2Proof

/-- Does the line already hold the level a transition of direction `d` leads to? In the event form "`ir_prev` is the
current line level and enforces that transitions alternate" (10_state R33). -/
def State.lineHeld (s : State) (d : Direction) : Bool := levelAfter d == s.irPrev

/-- Is the event only a repeat: a `FALL` or `RISE` of the armed polarity on a line that already holds its level? That is
no transition (10_state R33; 30_encoding R84), so no `EDGE` is selected and the event has no step of its own. One of the
other polarity keeps its step: 40 R102 names the `RISE` in the reset state, where `ir_prev` is 1, as `EDGE_IGNORED`,
which then changes nothing (DEDUCED, safe: log 6). -/
def State.repeats (s : State) : Event → Bool
  | .line d => d == s.armed && s.lineHeld d
  | .tick => false
  | .together _ _ => false
  | .main => false
  | .reset => false
  | .clock _ _ _ => false

/-- The first atomic step of an event and the events that stand for the rest of it. A tick together with a captured
transition has the three outcomes of 40 R103; with an ignored transition both take effect (60 R167 (b)), and with a
repeat of the level the line holds there is only the tick (log 6); one clock is the composition of 40 R104. -/
def expand (s : State) : Event → Atom × List Event
  | .tick => (.tick, [])
  | .line d => (.edge d false, [])
  | .main => (.main, [])
  | .reset => (.reset, [])
  | .together d o =>
    if s.repeats (.line d) then (.tick, [])
    else if d = s.armed then
      match o with
      | .tickFirst => (.tick, [.line d])
      | .edgeFirst => (.edge d false, [.tick])
      | .tickLost => (.edge d true, [])
    else (.edge d false, [.tick])
  | .clock rst tickEn irIn =>
    let d := dirOf irIn
    if rst then (.reset, [])
    else if irIn != s.irPrev then
      if d = s.armed then (.edge d tickEn, [.main])
      else if tickEn then (.edge d false, [.tick, .main])
      else (.edge d false, [.main])
    else if tickEn then (.tick, [.main])
    else (.main, [])

/-- The next atomic step and what is pending after it: that of the first event that is no repeat (log 6). With no such
event placed the main loop moves (log 5). -/
def nextAtom (s : State) : Atom × List Event :=
  match s.pending.dropWhile s.repeats with
  | [] => (.main, [])
  | e :: rest => ((expand s e).1, (expand s e).2 ++ rest)

/-- The selector word a state presents for an atomic step (30_encoding R79, R80). A transition selects by
its direction and `armed`; that it is one, by `ir_prev`, is settled before (`nextAtom`, `expand`). -/
def selectorWord (s : State) : Atom → Selector
  | .tick => ⟨.event, eventWord false true false s.armed s.armed⟩
  | .edge d tickInside => ⟨.event, eventWord false tickInside true d s.armed⟩
  | .reset => ⟨.event, eventWord true false false s.armed s.armed⟩
  | .main =>
    ⟨.ms, msWord s.mstate s.ready (s.fCmd == s.cfg.relearnCode) (s.fCmd == Config.allOffCode) (s.ltimer != 0)⟩

/-- The main-loop operation a state selects (30_encoding R79). -/
def State.mainOp (s : State) : Instr :=
  selectMainOp s.mstate s.ready (s.fCmd == s.cfg.relearnCode) (s.fCmd == Config.allOffCode) (s.ltimer != 0)

/-- The operation an atomic step selects, and the state it runs in with `rest` left pending. -/
def fetchAtom (s : State) (a : Atom) (rest : List Event) : Except Refusal (Instr × State) :=
  match decode s.cfg (selectorWord s a) with
  | .ok i => .ok (i, { s with pending := rest })
  | .error e => .error (.undecodable e)

/-- The operation of the next step, and the state it runs in: the event is taken from the environment. A
configuration that breaks 00_scope R5 or R6 is refused. -/
def fetch (s : State) : Except Refusal (Instr × State) :=
  if s.cfg.valid then fetchAtom s (nextAtom s).1 (nextAtom s).2 else .error .badConfig

/-- A command code that is neither sentinel. -/
def ordinaryCode (c : Config) : Byte := if c.relearnCode = 0x00 then 0x01 else 0x00

/-- The state in which the next step runs the operation an event word selects (log 10). -/
def placeEvent (s : State) (w : Nat) : State :=
  let d := dirOf (w.testBit 2)
  let armed := dirOf (w.testBit 3)
  if w.testBit 4 then { s with pending := [.reset] }
  else if w.testBit 1 then
    { s with
      armed := armed
      irPrev := !levelAfter d
      pending := if w.testBit 0 then [.together d .tickLost] else [.line d] }
  else { s with pending := [.tick] }

/-- The state in which the next step is the captured transition an EV word describes: its decoder state, direction and
interval, the line at the level before the transition (log 10). -/
def placeEv (s : State) (w : Nat) : State :=
  let sel := w / 2 ^ s.cfg.tickBits
  let d := dirOf (sel.testBit 0)
  { s with
    dstate := dstateOf (sel.testBit 2) (sel.testBit 1)
    armed := d
    tick := w % 2 ^ s.cfg.tickBits
    irPrev := !levelAfter d
    pending := [.line d] }

/-- The state in which the next main-loop step has the control state and the conditions of an MS word (log 10). -/
def placeMs (s : State) (w : Nat) : State :=
  match mstateOf (w % 8) with
  | some m =>
    { s with
      mstate := m
      ready := w.testBit 3
      fCmd := if w.testBit 4 then s.cfg.relearnCode
        else if w.testBit 5 then Config.allOffCode
        else ordinaryCode s.cfg
      ltimer := if w.testBit 6 then 1 else 0
      pending := [.main] }
  | none => s

/-- A selector word placed where the next step finds it. -/
def placeWord (s : State) (x : Selector) : State :=
  match x.fmt with
  | .event => placeEvent s x.word
  | .ev => placeEv s x.word
  | .ms => placeMs s x.word

end Sys2Proof.Machine
end

