-- ==== Sys2Proof/Machine/Step.lean ====
section
/-!
DEFINITION. One atomic step of the block (00_scope R7), and the placing of one table word for the next step.
-/

namespace Sys2Proof.Machine

open Sys2Proof

/-- One atomic step: the next event's operation is selected and runs. -/
def step (s : State) : Host.Outcome State Fault Refusal :=
  match fetch s with
  | .ok (i, s') => exec i s'
  | .error r => .refused r

/-- The state whose next step runs the operation of a word of the operation table (log 10). -/
def State.withFetchWord (s : State) (nbits w : Nat) : State := placeWord s ⟨formatOf nbits, w⟩

end Sys2Proof.Machine
end

