-- ==== Sys2Proof/Machine/Ports.lean ====
section
/-!
DEFINITION. What can be seen of the block from outside (00_scope R8, 10_state R39): the output ports, the store
port's activity, the operating mode (60 R175) and the trace label of an error condition (93 U10). Nothing here is read
by an operation.
-/

namespace Sys2Proof.Machine

open Sys2Proof

/-- `status` as a function of `status_mode` and `blink_phase` (10_state R31). -/
def statusLevel : StatusMode → Bool → Bool
  | .off, _ => false
  | .blink, phase => phase
  | .solid, _ => true

/-- The output ports (10_state R39). -/
structure Ports where
  ch : List Bool
  status : Bool
  rdy : Bool
  fAddr : Byte
  fAddrN : Byte
  fCmd : Byte
  fCmdN : Byte
  deriving DecidableEq, Repr

/-- The levels of the output ports in a state. -/
def State.ports (s : State) : Ports where
  ch := s.ch
  status := statusLevel s.statusMode s.blinkPhase
  rdy := s.ready
  fAddr := s.fAddr
  fAddrN := s.fAddrN
  fCmd := s.fCmd
  fCmdN := s.fCmdN

/-- The three operating modes (60 R175). -/
inductive Mode where
  | boot
  | learning
  | normal
  deriving DecidableEq, Repr

/-- The mode of a main-loop state (10_state R28, 60 R175). -/
def modeOf : MState → Mode
  | .boot => .boot
  | .load => .boot
  | .learnBegin => .learning
  | .learnWait => .learning
  | .learnHold => .learning
  | .commit => .learning
  | .normal => .normal

/-- One access on the store port: `ps_addr`, and for a write `ps_we` with `ps_wdata` (10_state R39). -/
inductive PortAccess where
  | read (slot : Nat)
  | write (slot : Nat) (v : Byte)
  deriving DecidableEq, Repr

/-- The store accesses an operation makes, in order (10_state R35, 42 R131, R132, R134, R138). -/
def storePort (s : State) : Instr → List PortAccess
  | .bootSelect => [.read sentinelSlot]
  | .keyLoad => (List.range s.cfg.k).map fun j => .read (slotOf j)
  | .learnStore => [.write (slotOf s.lidx) s.fCmd]
  | .learnCommit => [.write sentinelSlot Config.sentInit]
  | .tick => []
  | .edge _ _ => []
  | .edgeIgnored _ => []
  | .reset => []
  | .ldrArm _ => []
  | .ldrMark _ => []
  | .ldrSpace _ => []
  | .rptSpace _ => []
  | .bitMark _ => []
  | .bitZero _ => []
  | .bitOne _ => []
  | .stopMark _ => []
  | .mismatch _ _ _ => []
  | .learnBegin => []
  | .learnWait => []
  | .learnHold => []
  | .learnNext => []
  | .pollIdle => []
  | .relearn => []
  | .allOff => []
  | .dispatch => []

/-- What the accesses of an operation leave in the store. -/
def applyAccesses : List PortAccess → Memory → Memory
  | [], m => m
  | .read _ :: rest, m => applyAccesses rest m
  | .write a v :: rest, m => applyAccesses rest (memWrite m a v)

/-- The condition a decoder operation raises (60 R160, R161). -/
def decoderCondition (s : State) : DecoderOp → Option Condition
  | .mismatch => some .timingMismatch
  | .stopMark => if checksumValid s.fAddr s.fAddrN s.fCmd s.fCmdN then none else some .checksumFailure
  | .ldrArm => none
  | .ldrMark => none
  | .ldrSpace => none
  | .rptSpace => none
  | .bitMark => none
  | .bitZero => none
  | .bitOne => none

/-- The condition an operation raises in a state, a trace label that no register records (60 R160 to R163, 93 U10). -/
def raised (s : State) : Instr → Option Condition
  | .edge _ _ => decoderCondition s (selectDecoderOp s.cfg s.dstate s.armed s.tick)
  | .stopMark _ => decoderCondition s .stopMark
  | .mismatch _ _ _ => decoderCondition s .mismatch
  | .bootSelect =>
    if memRead s.store sentinelSlot = Config.sentUninit then some .uninitializedStore else none
  | .tick => none
  | .edgeIgnored _ => none
  | .reset => none
  | .ldrArm _ => none
  | .ldrMark _ => none
  | .ldrSpace _ => none
  | .rptSpace _ => none
  | .bitMark _ => none
  | .bitZero _ => none
  | .bitOne _ => none
  | .keyLoad => none
  | .learnBegin => none
  | .learnStore => none
  | .learnWait => none
  | .learnHold => none
  | .learnNext => none
  | .learnCommit => none
  | .pollIdle => none
  | .relearn => none
  | .allOff => none
  | .dispatch => none

end Sys2Proof.Machine
end

