-- ==== Sys2Proof/Safety.lean ====
section
/-!
DEFINITION. The terms the statements use: what stays unchanged, and the invariants of every reachable state
(10_state R38; 41 R119; 42 R139; 60 R175).
-/

namespace Sys2Proof.Machine

open Sys2Proof

/-- The registers of 10_state R20, as names. -/
inductive Reg where
  | tick
  | frame
  | bitIndex
  | fAddr
  | fAddrN
  | fCmd
  | fCmdN
  | keyMap
  | ch
  | dstate
  | mstate
  | lidx
  | ready
  | armed
  | statusMode
  | blinkPhase
  | ltimer
  | irPrev
  deriving DecidableEq, Repr

/-- Every register not listed keeps its value, and so do the configuration and the environment's coming events. -/
def Frame (changed : List Reg) (s t : State) : Prop :=
  (.tick ∉ changed → t.tick = s.tick) ∧
  (.frame ∉ changed → t.frame = s.frame) ∧
  (.bitIndex ∉ changed → t.bitIndex = s.bitIndex) ∧
  (.fAddr ∉ changed → t.fAddr = s.fAddr) ∧
  (.fAddrN ∉ changed → t.fAddrN = s.fAddrN) ∧
  (.fCmd ∉ changed → t.fCmd = s.fCmd) ∧
  (.fCmdN ∉ changed → t.fCmdN = s.fCmdN) ∧
  (.keyMap ∉ changed → t.keyMap = s.keyMap) ∧
  (.ch ∉ changed → t.ch = s.ch) ∧
  (.dstate ∉ changed → t.dstate = s.dstate) ∧
  (.mstate ∉ changed → t.mstate = s.mstate) ∧
  (.lidx ∉ changed → t.lidx = s.lidx) ∧
  (.ready ∉ changed → t.ready = s.ready) ∧
  (.armed ∉ changed → t.armed = s.armed) ∧
  (.statusMode ∉ changed → t.statusMode = s.statusMode) ∧
  (.blinkPhase ∉ changed → t.blinkPhase = s.blinkPhase) ∧
  (.ltimer ∉ changed → t.ltimer = s.ltimer) ∧
  (.irPrev ∉ changed → t.irPrev = s.irPrev) ∧
  t.cfg = s.cfg ∧ t.pending = s.pending

/-- Every store slot not listed reads as before. -/
def StoreFrame (written : List Nat) (s t : State) : Prop :=
  ∀ a, a ∉ written → memRead t.store a = memRead s.store a

/-- The widths and shapes of the registers (10_state R20, R21, R25, R26, R28, R32, R38 (d)), a valid configuration
(00_scope R6) and the store's canonical form. -/
abbrev State.WellFormed (s : State) : Prop :=
  s.cfg.valid ∧
  s.tick < 2 ^ s.cfg.tickBits ∧
  s.ltimer < 2 ^ s.cfg.ltBits ∧
  s.lidx < s.cfg.k ∧
  s.keyMap.length = s.cfg.k ∧
  s.ch.length = s.cfg.k ∧
  Memory.wf s.store

/-- 10_state R38 (a), and that a frame position is held only while data is received (41 R119, R120; D12). -/
abbrev State.DecoderPhase (s : State) : Prop :=
  (s.dstate = .awaitLeaderLow → s.armed = .falling) ∧
  (s.dstate = .awaitStop → s.armed = .rising) ∧
  (s.dstate ≠ .receivingData → s.bitIndex = 0)

/-- The DecodedFrame registers equal the finished bytes of the frame being received, and at the stop mark all four
(41 R118, R119 (b)). -/
abbrev State.FrameBytes (s : State) : Prop :=
  (s.dstate = .receivingData →
    (8 ≤ s.bitIndex.toNat → s.fAddr = frameByte s.frame 0) ∧
    (16 ≤ s.bitIndex.toNat → s.fAddrN = frameByte s.frame 1) ∧
    (24 ≤ s.bitIndex.toNat → s.fCmd = frameByte s.frame 2)) ∧
  (s.dstate = .awaitStop →
    s.fAddr = frameByte s.frame 0 ∧ s.fAddrN = frameByte s.frame 1 ∧
    s.fCmd = frameByte s.frame 2 ∧ s.fCmdN = frameByte s.frame 3)

/-- What the status indicator shows in each main-loop state (60 R175, 10_state R38 (f), 43 R155 (c)). -/
abbrev State.StatusShown (s : State) : Prop :=
  match s.mstate with
  | .boot => s.statusMode = .off
  | .load => s.statusMode = .off
  | .learnBegin => True
  | .learnWait => s.statusMode = .blink
  | .learnHold => s.statusMode = .solid
  | .commit => s.statusMode = .solid
  | .normal => s.statusMode = .solid

/-- The first `n` KeyMap entries are what store slots 1..n hold. -/
abbrev State.Stored (s : State) (n : Nat) : Prop :=
  ∀ i < n, s.keyMap[i]? = some (memRead s.store (slotOf i))

/-- The first `n` channels are off. -/
abbrev State.Off (s : State) (n : Nat) : Prop :=
  ∀ i < n, s.ch[i]? = some false

/-- How far KeyMap and store agree, and which channels are off, at each point of a learning pass (42 R139 (d), (f)). -/
abbrev State.LearnedSoFar (s : State) : Prop :=
  match s.mstate with
  | .boot => True
  | .load => True
  | .learnBegin => s.Stored s.lidx ∧ s.Off s.lidx
  | .learnWait => s.Stored s.lidx ∧ s.Off s.lidx
  | .learnHold => s.Stored (s.lidx + 1) ∧ s.Off s.lidx
  | .commit => s.Stored s.cfg.k ∧ s.Off s.cfg.k
  | .normal => s.Stored s.cfg.k

/-- Two states agree on the configuration and the decoder's nine registers (41 R110). -/
abbrev SameDecoder (s s' : State) : Prop :=
  s'.cfg = s.cfg ∧ s'.dstate = s.dstate ∧ s'.armed = s.armed ∧ s'.frame = s.frame ∧ s'.bitIndex = s.bitIndex ∧
  s'.fAddr = s.fAddr ∧ s'.fAddrN = s.fAddrN ∧ s'.fCmd = s.fCmd ∧ s'.fCmdN = s.fCmdN ∧ s'.ready = s.ready

/-- Two states agree on the configuration, the store and the registers the main loop reads (10_state R37). -/
abbrev SameMainLoop (s s' : State) : Prop :=
  s'.cfg = s.cfg ∧ s'.keyMap = s.keyMap ∧ s'.ch = s.ch ∧ s'.mstate = s.mstate ∧ s'.lidx = s.lidx ∧
  s'.ready = s.ready ∧ s'.fCmd = s.fCmd ∧ s'.statusMode = s.statusMode ∧ s'.blinkPhase = s.blinkPhase ∧
  s'.ltimer = s.ltimer ∧ s'.store = s.store

/-- The eight rows of the decoder's table (30_encoding R78), transcribed; `mismatch` has no row. -/
def TableRow (c : Config) (ds : DState) (d : Direction) (t : Nat) : DecoderOp → Prop
  | .ldrArm => ds = .awaitLeaderHigh ∧ d = .falling
  | .ldrMark => ds = .awaitLeaderHigh ∧ d = .rising ∧ (window c .lh).min ≤ t ∧ t ≤ (window c .lh).max
  | .ldrSpace => ds = .awaitLeaderLow ∧ d = .falling ∧ (window c .ll).min ≤ t ∧ t ≤ (window c .ll).max
  | .rptSpace => ds = .awaitLeaderLow ∧ d = .falling ∧ (window c .rp).min ≤ t ∧ t ≤ (window c .rp).max
  | .bitMark => ds = .receivingData ∧ d = .rising ∧ (window c .mk).min ≤ t ∧ t ≤ (window c .mk).max
  | .bitZero => ds = .receivingData ∧ d = .falling ∧ (window c .s0).min ≤ t ∧ t ≤ (window c .s0).max
  | .bitOne => ds = .receivingData ∧ d = .falling ∧ (window c .s1).min ≤ t ∧ t ≤ (window c .s1).max
  | .stopMark => ds = .awaitStop ∧ d = .rising ∧ (window c .mk).min ≤ t ∧ t ≤ (window c .mk).max
  | .mismatch => False

/-- The registers each operation may write (10_state R37; 40 R100 to R102; 41 R111 to R120; 42 R131 to R138; 43 R151 to
R154; 70 R190). -/
def mayWrite : Instr → List Reg
  | .tick => [.tick, .ltimer]
  | .edge _ _ =>
    [.tick, .ltimer, .irPrev, .armed, .dstate, .frame, .bitIndex, .fAddr, .fAddrN, .fCmd, .fCmdN, .ready]
  | .edgeIgnored _ => [.irPrev]
  | .reset =>
    [.tick, .frame, .bitIndex, .fAddr, .fAddrN, .fCmd, .fCmdN, .keyMap, .ch, .dstate, .mstate, .lidx, .ready,
      .armed, .statusMode, .blinkPhase, .ltimer, .irPrev]
  | .ldrArm _ => [.armed]
  | .ldrMark _ => [.dstate, .armed]
  | .ldrSpace _ => [.dstate, .armed, .bitIndex]
  | .rptSpace _ => []
  | .bitMark _ => [.armed]
  | .bitZero _ => [.frame, .fAddr, .fAddrN, .fCmd, .fCmdN, .dstate, .bitIndex, .armed]
  | .bitOne _ => [.frame, .fAddr, .fAddrN, .fCmd, .fCmdN, .dstate, .bitIndex, .armed]
  | .stopMark _ => [.ready, .dstate, .armed, .bitIndex]
  | .mismatch _ _ _ => [.dstate, .armed, .bitIndex]
  | .bootSelect => [.mstate, .lidx]
  | .keyLoad => [.keyMap, .statusMode, .mstate]
  | .learnBegin => [.ch, .statusMode, .blinkPhase, .ltimer, .mstate]
  | .learnStore => [.keyMap, .statusMode, .ltimer, .mstate]
  | .learnWait => [.blinkPhase, .ltimer]
  | .learnHold => []
  | .learnNext => [.ch, .ready, .lidx, .mstate]
  | .learnCommit => [.statusMode, .mstate]
  | .pollIdle => []
  | .relearn => [.ready, .lidx, .mstate]
  | .allOff => [.ch, .ready]
  | .dispatch => [.ch, .ready]

/-- The slots written by a sequence of store accesses. -/
def writtenSlots : List PortAccess → List Nat
  | [] => []
  | .read _ :: rest => writtenSlots rest
  | .write a _ :: rest => a :: writtenSlots rest

/-- The store slots an operation may write (10_state R35): those its store accesses write. -/
def mayStore (s : State) (i : Instr) : List Nat := writtenSlots (storePort s i)

/-- What `SHIFT_IN(b)` does (41 R118), said bit by bit: bit `bitIndex` of the frame is `b` and the others keep their
values; a byte finished by that bit is snapshotted from the frame with the bit in it. -/
def ShiftedIn (b : Bool) (s t : State) : Prop :=
  let i := s.bitIndex.toNat
  (∀ j < 32, t.frame.getLsbD j = if j = i then b else s.frame.getLsbD j) ∧
  (if i = 7 then ∀ n < 8, t.fAddr.getLsbD n = t.frame.getLsbD n else t.fAddr = s.fAddr) ∧
  (if i = 15 then ∀ n < 8, t.fAddrN.getLsbD n = t.frame.getLsbD (8 + n) else t.fAddrN = s.fAddrN) ∧
  (if i = 23 then ∀ n < 8, t.fCmd.getLsbD n = t.frame.getLsbD (16 + n) else t.fCmd = s.fCmd) ∧
  (if i = 31 then ∀ n < 8, t.fCmdN.getLsbD n = t.frame.getLsbD (24 + n) else t.fCmdN = s.fCmdN) ∧
  (t.dstate = if i = 31 then .awaitStop else s.dstate) ∧
  t.bitIndex.toNat = (i + 1) % 32 ∧
  t.armed = .rising

/-- `n` steps of the machine. -/
abbrev runSteps (n : Nat) (s : State) : Result := Host.Core.run Sys2Proof.core n s

/-- One operation, then another in the state it leaves. -/
def andThen (r : Result) (f : State → Result) : Result :=
  match r with
  | .next s => f s
  | .fault e => .fault e
  | .refused e => .refused e

/-- `n` tick pulses and then a transition: `F(n)` and `R(n)` of 30_encoding R90. -/
def pulse (n : Nat) (d : Direction) : List Event := List.replicate n .tick ++ [.line d]

/-- The 68 transitions of a frame (30_encoding R73): the opening Falling edge after `t0`
ticks, the leader mark and space, for each bit its mark and its space, and the stop mark. -/
def frameEvents (t0 leaderMark leaderSpace : Nat) (mark space : Nat → Nat) (stop : Nat) : List Event :=
  pulse t0 .falling ++ pulse leaderMark .rising ++ pulse leaderSpace .falling ++
    (List.range 32).flatMap (fun i => pulse (mark i) .rising ++ pulse (space i) .falling) ++ pulse stop .rising

end Sys2Proof.Machine
end

