-- ==== Sys2Proof/Certificates/Slice0/Obligations.lean ====
section
/-!
DEFINITION. The statements about the model, for the provers. Each holds for every valid configuration and every state
it does not exclude, whatever the environment does next.
-/

open Sys2Proof Sys2Proof.Machine

/-! ### Selector words: decoding and encoding -/

/-- Decoding the selector word of a well-formed operation gives the operation back (30_encoding sections 3 and 7). The
EV word is R91's; the event word and the condition bits of the MS word are the model's layout (log 9). -/
def Obligations.DecodeEncodeRoundTrip : Prop :=
  ∀ (c : Config) (i : Instr), c.valid → wellFormed c i = true → decode c (encode c i) = .ok i

/-- Whatever the decoder answers has its interval inside the counter's range and inside the window of its row. -/
def Obligations.DecodedOperationsAreWellFormed : Prop :=
  ∀ (c : Config) (x : Selector) (i : Instr), decode c x = .ok i → wellFormed c i = true

/-- Each EV word (R91) has one meaning: no bit of it is dropped, so encoding what it decodes to gives the word back. -/
def Obligations.EvWordsHaveOneMeaning : Prop :=
  ∀ (c : Config) (w : Nat) (i : Instr), decode c ⟨.ev, w⟩ = .ok i → encode c i = ⟨.ev, w⟩

/-- Words written out from 30_encoding R71, R78, R79 and R91 decode to the operations they stand for: EV words are
`dstate`, `direction`, `intervalTicks` from the top; MS words of one byte carry the `mstate` code in bits 2:0 and,
above it,
the model's condition bits, here all 0 (log 9). -/
def Obligations.SpecSelectorWordsDecode : Prop :=
  decodeTableWord 24 0x00000 = some (.ldrArm 0) ∧
  decodeTableWord 24 0x10384 = some (.ldrMark 900) ∧
  decodeTableWord 24 0x201C2 = some (.ldrSpace 450) ∧
  decodeTableWord 24 0x200E1 = some (.rptSpace 225) ∧
  decodeTableWord 24 0x50038 = some (.bitMark 56) ∧
  decodeTableWord 24 0x40038 = some (.bitZero 56) ∧
  decodeTableWord 24 0x400A9 = some (.bitOne 169) ∧
  decodeTableWord 24 0x70038 = some (.stopMark 56) ∧
  decodeTableWord 24 0x40064 = some (.mismatch .receivingData .falling 100) ∧
  decodeTableWord 8 0x0 = some .bootSelect ∧
  decodeTableWord 8 0x1 = some .keyLoad ∧
  decodeTableWord 8 0x2 = some .learnBegin ∧
  decodeTableWord 8 0x5 = some .learnCommit ∧
  decodeTableWord 8 0x6 = some .pollIdle ∧
  decodeTableWord 8 0x7 = none

/-! ### The operation map -/

/-- The decoder's table (30_encoding R78): each of the eight operations is selected exactly where its row holds, and
`MISMATCH` exactly where no row does. -/
def Obligations.WindowTableSelectsRows : Prop :=
  ∀ (c : Config) (ds : DState) (d : Direction) (t : Nat), c.valid →
    (∀ op, op ≠ .mismatch → (selectDecoderOp c ds d t = op ↔ TableRow c ds d t op)) ∧
    (selectDecoderOp c ds d t = .mismatch ↔ ∀ op, ¬ TableRow c ds d t op)

/-- The mismatching intervals of 30_encoding R81, at the spec's windows and any values of the open parameters. -/
def Obligations.MismatchIntervalsOfSpecWindows : Prop :=
  ∀ (k : Nat) (relearn : Byte) (blink confirm ltBits : Nat) (ds : DState) (d : Direction) (t : Nat),
    selectDecoderOp (Config.spec k relearn blink confirm ltBits) ds d t = .mismatch ↔
      match ds, d with
      | .awaitLeaderHigh, .falling => False
      | .awaitLeaderHigh, .rising => t ≤ 799 ∨ 1101 ≤ t
      | .awaitLeaderLow, .falling => t ≤ 199 ∨ (251 ≤ t ∧ t ≤ 299) ∨ 601 ≤ t
      | .awaitLeaderLow, .rising => True
      | .receivingData, .rising => t ≤ 19 ∨ 81 ≤ t
      | .receivingData, .falling => t ≤ 19 ∨ (81 ≤ t ∧ t ≤ 119) ∨ 231 ≤ t
      | .awaitStop, .rising => t ≤ 19 ∨ 81 ≤ t
      | .awaitStop, .falling => True

/-- The spec's windows in ticks (00_scope R5), and the constraints R5 and R6 leave on the five open parameters. -/
def Obligations.SpecConfigurationIsValid : Prop :=
  ∀ (k : Nat) (relearn : Byte) (blink confirm ltBits : Nat),
    let c := Config.spec k relearn blink confirm ltBits
    window c .lh = ⟨800, 1100⟩ ∧ window c .ll = ⟨300, 600⟩ ∧ window c .rp = ⟨200, 250⟩ ∧
    window c .mk = ⟨20, 80⟩ ∧ window c .s0 = ⟨20, 80⟩ ∧ window c .s1 = ⟨120, 230⟩ ∧
    (c.valid ↔
      1 ≤ k ∧ k ≤ 255 ∧ relearn ≠ 0x02#8 ∧ 1 ≤ blink ∧ 1 ≤ confirm ∧ blink < 2 ^ ltBits ∧ confirm < 2 ^ ltBits)

/-! ### The step -/

/-- A step runs the operation that the state's selector word decodes to, in the state with the event taken from the
environment; the decoded operation is well-formed. The selector words are the model's where the spec gives none (log 9),
the environment is the list `pending` (log 4). -/
def Obligations.StepRunsDecodedOperation : Prop :=
  ∀ (s : State) (i : Instr), s.cfg.valid →
    decode s.cfg (selectorWord s (nextAtom s).1) = .ok i →
    wellFormed s.cfg i = true ∧ step s = exec i { s with pending := (nextAtom s).2 }

/-- The word that `withFetchWord` places is the one the next step runs: an event word or an MS word as it stands, an EV
word inside the `EDGE` step that captures its event (log 10: the placing is the model's). -/
def Obligations.PlacedWordRunsNext : Prop :=
  ∀ (s : State) (nbits w : Nat) (i : Instr), s.cfg.valid →
    decode s.cfg ⟨formatOf nbits, w⟩ = .ok i →
    let p := s.withFetchWord nbits w
    (nbits ≤ 8 → step p = exec i { p with pending := [] }) ∧
    (8 < nbits → step p = exec i { p with tick := 0, irPrev := levelAfter p.armed, pending := [] })

/-- The event rows (30_encoding R80): a tick pulse runs `TICK`, a transition of the armed polarity `EDGE`, one of the
other polarity `EDGE_IGNORED`, and `rst` runs `RESET`. A repeat of the level the line holds is no transition of the armed polarity and
offers no `edge` step (log 6). -/
def Obligations.EventRowsSelectTheirOperation : Prop :=
  ∀ (s : State), s.cfg.valid →
    let s0 := { s with pending := (nextAtom s).2 }
    match (nextAtom s).1 with
    | .tick => step s = exec .tick s0
    | .reset => step s = exec .reset s0
    | .edge d tickInside =>
      if d = s.armed then step s = exec (.edge d tickInside) s0 else step s = exec (.edgeIgnored d) s0
    | .main => True

/-- The main loop's step runs the row of 30_encoding R79 that its state holds, tested in the order of R79 and 43 R150.
-/
def Obligations.MainStepRunsTableRow : Prop :=
  ∀ (s : State), s.cfg.valid → (nextAtom s).1 = .main →
    step s = exec
      (match s.mstate with
        | .boot => .bootSelect
        | .load => .keyLoad
        | .learnBegin => .learnBegin
        | .learnWait => if s.ready = true ∧ s.fCmd ≠ s.cfg.relearnCode then .learnStore else .learnWait
        | .learnHold => if s.ltimer ≠ 0 then .learnHold else .learnNext
        | .commit => .learnCommit
        | .normal =>
          if s.ready = false then .pollIdle
          else if s.fCmd = s.cfg.relearnCode then .relearn
          else if s.fCmd = 0x02#8 then .allOff
          else .dispatch)
      { s with pending := (nextAtom s).2 }

/-- "No condition is fatal" (60 R163): a step from a state with the machine's widths always answers a next state,
whatever the environment offers. -/
def Obligations.WellFormedStepsComplete : Prop :=
  ∀ (s : State), s.WellFormed → ∃ t, step s = .next t

/-- What the model refuses: a configuration that breaks 00_scope R5 or R6, and nothing else. -/
def Obligations.RefusedStepsAreNamed : Prop :=
  ∀ (s : State),
    (¬ s.cfg.valid → step s = .refused .badConfig) ∧
    (∀ r, step s = .refused r → r = .badConfig ∧ ¬ s.cfg.valid)

/-- A train of `n` tick pulses adds `n` to the Timebase modulo 2^TICK_BITS and takes `n` from the delay counter, which
stops at 0; nothing else changes (00_scope R11, 40 R105, 70 R201). -/
def Obligations.PulseTrainCountsTicks : Prop :=
  ∀ (s : State) (n : Nat) (rest : List Event), s.cfg.valid → s.tick < 2 ^ s.cfg.tickBits →
    s.pending = List.replicate n .tick ++ rest →
    runSteps n s =
      .next { s with tick := (s.tick + n) % 2 ^ s.cfg.tickBits, ltimer := s.ltimer - n, pending := rest }

/-- A tick that coincides with a captured edge (40 R103; the outcome is data in `pending`: log 7): the decoder sees
t + 1, t or t, the counter is left at 0, 1 or 0, and the delay counter is decremented in all three outcomes. The edge
changes the level of the line (10_state R33); where it does not, `LineTransitionsAlternate` says what happens
(log 6). -/
def Obligations.CoincidenceHasThreeOutcomes : Prop :=
  ∀ (s : State) (o : TickOutcome) (rest : List Event), s.cfg.valid → levelAfter s.armed ≠ s.irPrev →
    s.pending = .together s.armed o :: rest →
    let n := match o with
      | .tickFirst => 2
      | .edgeFirst => 2
      | .tickLost => 1
    let seen := match o with
      | .tickFirst => (s.tick + 1) % 2 ^ s.cfg.tickBits
      | .edgeFirst => s.tick
      | .tickLost => s.tick
    let left := match o with
      | .tickFirst => 0
      | .edgeFirst => 1
      | .tickLost => 0
    ∃ u t, exec (decoderInstr s.dstate s.armed seen (selectDecoderOp s.cfg s.dstate s.armed seen)) s = .next u ∧
      runSteps n s = .next t ∧
      t.tick = left ∧ t.ltimer = s.ltimer - 1 ∧ t.irPrev = levelAfter s.armed ∧
      Frame [.tick, .ltimer, .irPrev] { u with pending := rest } t ∧ StoreFrame [] s t

/-- One clock of the clocked form (40 R104; several machine steps in this model: log 8) is the composition it lists:
reset alone; or the captured edge with the coincident tick inside it, or the ignored edge and then the tick; and in each
case the main loop's step last. -/
def Obligations.ClockComposesAtomicSteps : Prop :=
  ∀ (s : State) (rst tickEn irIn : Bool) (rest : List Event), s.cfg.valid →
    s.pending = .clock rst tickEn irIn :: rest →
    let d := if irIn then Direction.rising else Direction.falling
    let after := fun (more : List Event) (u : State) => { u with pending := more ++ rest }
    let mainStep := fun u : State => exec u.mainOp (after [] u)
    (rst = true → runSteps 1 s = exec .reset (after [] s)) ∧
    (rst = false → irIn ≠ s.irPrev → d = s.armed →
      runSteps 2 s = andThen (exec (.edge d tickEn) (after [.main] s)) mainStep) ∧
    (rst = false → irIn ≠ s.irPrev → d ≠ s.armed → tickEn = true →
      runSteps 3 s =
        andThen (andThen (exec (.edgeIgnored d) (after [.tick, .main] s)) fun u => exec .tick (after [.main] u))
          mainStep) ∧
    (rst = false → irIn ≠ s.irPrev → d ≠ s.armed → tickEn = false →
      runSteps 2 s = andThen (exec (.edgeIgnored d) (after [.main] s)) mainStep) ∧
    (rst = false → irIn = s.irPrev → tickEn = true →
      runSteps 2 s = andThen (exec .tick (after [.main] s)) mainStep) ∧
    (rst = false → irIn = s.irPrev → tickEn = false → runSteps 1 s = mainStep s)

/-! ### Invariants that every step keeps -/

/-- Every step keeps the widths of the registers, the lengths of the register arrays, `lidx` below K, the
configuration's validity and the store's canonical form. -/
def Obligations.StepKeepsWellFormed : Prop :=
  ∀ (s t : State), s.WellFormed → step s = .next t → t.WellFormed

/-- Every step keeps 10_state R38 (a), the polarity armed in each decoder state, with `bitIndex` 0 outside
ReceivingData. -/
def Obligations.StepKeepsDecoderPhase : Prop :=
  ∀ (s t : State), s.DecoderPhase → step s = .next t → t.DecoderPhase

/-- Every step keeps the agreement of the DecodedFrame registers with the finished bytes of the frame in reception, and
with all four at the stop mark (41 R119 (b)). -/
def Obligations.StepKeepsFrameBytes : Prop :=
  ∀ (s t : State), s.FrameBytes → step s = .next t → t.FrameBytes

/-- Every step keeps what the status indicator shows in each main-loop state (60 R175, 10_state R38 (f)). -/
def Obligations.StepKeepsStatusShown : Prop :=
  ∀ (s t : State), s.StatusShown → step s = .next t → t.StatusShown

/-- Every step keeps the agreement of KeyMap and store as far as learning has come, all of it in Normal mode, and the
channels already visited by a learning pass off (42 R139 (d), (f)). -/
def Obligations.StepKeepsLearnedSoFar : Prop :=
  ∀ (s t : State), s.WellFormed → s.LearnedSoFar → step s = .next t → t.LearnedSoFar

/-- The state after reset meets the five invariants, for every valid configuration, canonical store and environment;
`State.reset` is one of these states (its configuration and store are the model's choice: log 2, log 12). -/
def Obligations.ResetMeetsInvariants : Prop :=
  (∀ (c : Config) (m : Memory) (p : List Event), c.valid → Memory.wf m →
    let s := State.resetWith c m p
    s.WellFormed ∧ s.DecoderPhase ∧ s.FrameBytes ∧ s.StatusShown ∧ s.LearnedSoFar) ∧
  State.reset = State.resetWith Config.illustrative [] [] ∧ Config.illustrative.valid

/-! ### Rules of the whole machine -/

/-- Every operation writes only the registers and the store slots its rule names (10_state R37, R35). -/
def Obligations.OperationsWriteOnlyTheirRegisters : Prop :=
  ∀ (i : Instr) (s t : State), exec i s = .next t → Frame (mayWrite i) s t ∧ StoreFrame (mayStore s i) s t

/-- `ready` is set only by a confirmed stop mark with a valid checksum, and then the DecodedFrame bytes are the ones
that were checked (10_state R29, 41 R119). -/
def Obligations.ReadySetOnlyByValidStopMark : Prop :=
  ∀ (s t : State), step s = .next t → s.ready = false → t.ready = true →
    s.dstate = .awaitStop ∧ s.armed = .rising ∧
    (window s.cfg .mk).min ≤ s.tick ∧ s.tick ≤ (window s.cfg .mk).max ∧
    s.fAddr ^^^ s.fAddrN = 0xFF#8 ∧ s.fCmd ^^^ s.fCmdN = 0xFF#8 ∧
    t.fAddr = s.fAddr ∧ t.fAddrN = s.fAddrN ∧ t.fCmd = s.fCmd ∧ t.fCmdN = s.fCmdN

/-- `ready` is cleared only by `RESET` and by the main loop: at the end of a confirmation hold or by one of the three
consuming operations of Normal mode (10_state R29). -/
def Obligations.ReadyClearedOnlyByConsumers : Prop :=
  ∀ (s t : State), step s = .next t → s.ready = true → t.ready = false →
    (nextAtom s).1 = .reset ∨
    ((nextAtom s).1 = .main ∧ ((s.mstate = .learnHold ∧ s.ltimer = 0) ∨ s.mstate = .normal))

/-- Store slot 0 changes only in the main loop's Commit step, which writes 0x00 (42 R138, 20_memory R57). -/
def Obligations.SentinelWrittenOnlyByCommit : Prop :=
  ∀ (s t : State), Memory.wf s.store → step s = .next t → memRead t.store 0 ≠ memRead s.store 0 →
    (nextAtom s).1 = .main ∧ s.mstate = .commit ∧ memRead t.store 0 = 0x00#8

/-- The mode changes only as 60 R175 lists: Boot to Learning on an uninitialized store, Boot to Normal by the load,
Learning to Normal by the commit, Normal to Learning on the re-learn code; and to Boot by `RESET`. -/
def Obligations.ModeChangesOnlyAsListed : Prop :=
  ∀ (s t : State), step s = .next t →
    modeOf t.mstate = modeOf s.mstate ∨
    ((nextAtom s).1 = .reset ∧ t.mstate = .boot) ∨
    ((nextAtom s).1 = .main ∧
      ((s.mstate = .boot ∧ memRead s.store 0 = 0xFF#8 ∧ t.mstate = .learnBegin) ∨
       (s.mstate = .load ∧ t.mstate = .normal) ∨
       (s.mstate = .commit ∧ t.mstate = .normal) ∨
       (s.mstate = .normal ∧ s.ready = true ∧ s.fCmd = s.cfg.relearnCode ∧ t.mstate = .learnBegin)))

/-- The store after an operation is the store before it with the operation's accesses on the store port applied in
order (10_state R35, R39; the port function is the model's view of D20: log 19). -/
def Obligations.StorePortExplainsStore : Prop :=
  ∀ (i : Instr) (s t : State), exec i s = .next t → t.store = applyAccesses (storePort s i) s.store

/-- The three conditions act locally and silently (60 R160 to R163): a timing mismatch or a failed checksum leaves the
decoder in AwaitLeaderHigh with Falling armed and touches no output, no flag and no DecodedFrame byte; an uninitialized
store only routes the main loop into Learning. That an operation raises a condition is a label outside the state
(93 U10; log 19). -/
def Obligations.ConditionsAreLocalAndSilent : Prop :=
  ∀ (i : Instr) (s : State) (e : Condition), raised s i = some e →
    ∃ t, exec i s = .next t ∧ t.ports = s.ports ∧ StoreFrame [] s t ∧
      match e with
      | .timingMismatch =>
        t.dstate = .awaitLeaderHigh ∧ t.armed = .falling ∧ t.bitIndex = 0 ∧
        Frame [.dstate, .armed, .bitIndex, .tick, .irPrev, .ltimer] s t
      | .checksumFailure =>
        t.dstate = .awaitLeaderHigh ∧ t.armed = .falling ∧ t.bitIndex = 0 ∧
        Frame [.dstate, .armed, .bitIndex, .tick, .irPrev, .ltimer] s t
      | .uninitializedStore => t.mstate = .learnBegin ∧ t.lidx = 0 ∧ Frame [.mstate, .lidx] s t

/-- The decoder reads nothing but its nine registers and the event (41 R110): two states that agree on them leave
them equal after a captured edge, whatever the main loop's registers and the store hold, in every mode. -/
def Obligations.DecoderReadsOnlyItsRegisters : Prop :=
  ∀ (s s' : State) (d : Direction) (tickInside : Bool), SameDecoder s s' → s'.tick = s.tick →
    ∃ t t', exec (.edge d tickInside) s = .next t ∧ exec (.edge d tickInside) s' = .next t' ∧ SameDecoder t t'

/-- The main loop reads none of the edge side's registers but `ready` and `f_cmd` (10_state R37, R21, R24): two states
that agree on what it reads select the same operation and leave what it reads equal, stops included. -/
def Obligations.MainLoopReadsOnlyItsRegisters : Prop :=
  ∀ (s s' : State), SameMainLoop s s' →
    s'.mainOp = s.mainOp ∧
    (∀ t, exec s.mainOp s = .next t → ∃ t', exec s.mainOp s' = .next t' ∧ SameMainLoop t t') ∧
    (∀ e, exec s.mainOp s = .fault e → exec s.mainOp s' = .fault e)

/-! ### Timebase, EdgeCapture, reset -/

/-- `TICK` (R100), which a tick pulse selects. -/
def Obligations.TickAdvancesCounters : Prop :=
  ∀ s : State,
    (s.cfg.valid → (nextAtom s).1 = .tick → step s = exec .tick { s with pending := (nextAtom s).2 }) ∧
    ∃ t, exec .tick s = .next t ∧
    t.tick = (s.tick + 1) % 2 ^ s.cfg.tickBits ∧
    t.ltimer = (if s.ltimer = 0 then 0 else s.ltimer - 1) ∧
    Frame [.tick, .ltimer] s t ∧ StoreFrame [] s t

/-- `EDGE` (R101): the counter is zeroed whatever the decoder does, the line level is recorded, and exactly the decoder
operation selected by `dstate`, the armed polarity and the counter before the step runs; a tick inside the step counts
for `ltimer` only (R103 (iii)). The main loop's registers and the store are not touched. -/
def Obligations.EdgeRunsOneDecoderOperation : Prop :=
  ∀ (s : State) (tickInside : Bool),
    let ltimer' := if tickInside then s.ltimer - 1 else s.ltimer
    exec (.edge s.armed tickInside) s =
      exec (decoderInstr s.dstate s.armed s.tick (selectDecoderOp s.cfg s.dstate s.armed s.tick))
        { s with tick := 0, irPrev := levelAfter s.armed, ltimer := ltimer' } ∧
    ∃ t, exec (.edge s.armed tickInside) s = .next t ∧
      t.tick = 0 ∧ t.irPrev = levelAfter s.armed ∧ t.ltimer = ltimer' ∧ (s.ready = true → t.ready = true) ∧
      Frame [.tick, .irPrev, .ltimer, .armed, .dstate, .frame, .bitIndex, .fAddr, .fAddrN, .fCmd, .fCmdN, .ready] s t ∧
      StoreFrame [] s t

/-- `EDGE_IGNORED` (R102), which a transition of the unarmed polarity selects, whatever level `ir_prev` holds (log 6):
only the line level is recorded; the counter keeps its value. -/
def Obligations.IgnoredEdgeOnlyRecordsLevel : Prop :=
  ∀ (s : State) (d : Direction),
    (s.cfg.valid → d ≠ s.armed → (nextAtom s).1 = .edge d false →
      step s = exec (.edgeIgnored d) { s with pending := (nextAtom s).2 }) ∧
    ∃ t, exec (.edgeIgnored d) s = .next t ∧
    t.irPrev = decide (d = .rising) ∧ Frame [.irPrev] s t ∧ StoreFrame [] s t

/-- `RESET` (R190), which `rst` = 1 selects whatever else the clock brings: every register takes its value of 10_state
R40; the store is not written. That the configuration and the pending events, fields of the model's own, stay is the
model's choice (log 21). -/
def Obligations.ResetLeavesListedValues : Prop :=
  ∀ s : State,
    (∀ (tickEn irIn : Bool) (rest : List Event), s.cfg.valid → s.pending = .clock true tickEn irIn :: rest →
      step s = exec .reset { s with pending := rest }) ∧
    ∃ t, exec .reset s = .next t ∧
    t.dstate = .awaitLeaderHigh ∧ t.armed = .falling ∧ t.tick = 0 ∧ t.frame = 0#32 ∧ t.bitIndex = 0#5 ∧
    t.fAddr = 0#8 ∧ t.fAddrN = 0#8 ∧ t.fCmd = 0#8 ∧ t.fCmdN = 0#8 ∧ t.ready = false ∧
    t.keyMap.length = s.cfg.k ∧ t.ch.length = s.cfg.k ∧
    (∀ i < s.cfg.k, t.keyMap[i]? = some 0#8 ∧ t.ch[i]? = some false) ∧
    t.mstate = .boot ∧ t.lidx = 0 ∧ t.statusMode = .off ∧ t.blinkPhase = false ∧ t.ltimer = 0 ∧ t.irPrev = true ∧
    t.cfg = s.cfg ∧ t.pending = s.pending ∧ StoreFrame [] s t

/-! ### ProtocolDecoder -/

/-- `LDR_ARM` (R111): any interval. -/
def Obligations.LeaderArmAcceptsAnyInterval : Prop :=
  ∀ (s : State) (t : Nat),
    selectDecoderOp s.cfg .awaitLeaderHigh .falling t = .ldrArm ∧
    ∃ u, exec (.ldrArm t) s = .next u ∧ u.armed = .rising ∧ Frame [.armed] s u ∧ StoreFrame [] s u

/-- `LDR_MARK` (R112). -/
def Obligations.LeaderMarkAwaitsSpace : Prop :=
  ∀ (s : State) (t : Nat),
    (selectDecoderOp s.cfg .awaitLeaderHigh .rising t =
      if (window s.cfg .lh).min ≤ t ∧ t ≤ (window s.cfg .lh).max then .ldrMark else .mismatch) ∧
    ∃ u, exec (.ldrMark t) s = .next u ∧ u.dstate = .awaitLeaderLow ∧ u.armed = .falling ∧
      Frame [.dstate, .armed] s u ∧ StoreFrame [] s u

/-- `LDR_SPACE` (R113): the frame begins; `ready`, the frame and the DecodedFrame bytes are not touched. -/
def Obligations.LeaderSpaceBeginsFrame : Prop :=
  ∀ (s : State) (t : Nat),
    (selectDecoderOp s.cfg .awaitLeaderLow .falling t =
      if (window s.cfg .ll).min ≤ t ∧ t ≤ (window s.cfg .ll).max then .ldrSpace
      else if (window s.cfg .rp).min ≤ t ∧ t ≤ (window s.cfg .rp).max then .rptSpace
      else .mismatch) ∧
    ∃ u, exec (.ldrSpace t) s = .next u ∧ u.dstate = .receivingData ∧ u.armed = .rising ∧ u.bitIndex = 0#5 ∧
      Frame [.dstate, .armed, .bitIndex] s u ∧ StoreFrame [] s u

/-- `RPT_SPACE` (R114, decision D10): the decoder writes no register; nothing is published. -/
def Obligations.RepeatSpaceWritesNothing : Prop :=
  ∀ (s : State) (t : Nat),
    (s.cfg.valid → (window s.cfg .rp).min ≤ t ∧ t ≤ (window s.cfg .rp).max →
      selectDecoderOp s.cfg .awaitLeaderLow .falling t = .rptSpace) ∧
    ∃ u, exec (.rptSpace t) s = .next u ∧ Frame [] s u ∧ StoreFrame [] s u

/-- `BIT_MARK` (R115). -/
def Obligations.BitMarkArmsFalling : Prop :=
  ∀ (s : State) (t : Nat),
    (selectDecoderOp s.cfg .receivingData .rising t =
      if (window s.cfg .mk).min ≤ t ∧ t ≤ (window s.cfg .mk).max then .bitMark else .mismatch) ∧
    ∃ u, exec (.bitMark t) s = .next u ∧ u.armed = .falling ∧ Frame [.armed] s u ∧ StoreFrame [] s u

/-- `BIT_ZERO` and `BIT_ONE` (R116, R117) run `SHIFT_IN(0)` and `SHIFT_IN(1)` (R118). -/
def Obligations.DecidedBitsShiftIn : Prop :=
  ∀ (s : State) (t : Nat),
    (selectDecoderOp s.cfg .receivingData .falling t =
      if (window s.cfg .s0).min ≤ t ∧ t ≤ (window s.cfg .s0).max then .bitZero
      else if (window s.cfg .s1).min ≤ t ∧ t ≤ (window s.cfg .s1).max then .bitOne
      else .mismatch) ∧
    (∃ u, exec (.bitZero t) s = .next u ∧ ShiftedIn false s u ∧
      Frame [.frame, .fAddr, .fAddrN, .fCmd, .fCmdN, .dstate, .bitIndex, .armed] s u ∧ StoreFrame [] s u) ∧
    (∃ u, exec (.bitOne t) s = .next u ∧ ShiftedIn true s u ∧
      Frame [.frame, .fAddr, .fAddrN, .fCmd, .fCmdN, .dstate, .bitIndex, .armed] s u ∧ StoreFrame [] s u)

/-- `STOP_MARK` (R119): `ready` is set when both complements hold and otherwise not written; the decoder resets
normally either way. -/
def Obligations.StopMarkPublishesValidFrame : Prop :=
  ∀ (s : State) (t : Nat),
    (selectDecoderOp s.cfg .awaitStop .rising t =
      if (window s.cfg .mk).min ≤ t ∧ t ≤ (window s.cfg .mk).max then .stopMark else .mismatch) ∧
    ∃ u, exec (.stopMark t) s = .next u ∧
      (u.ready = if s.fAddr ^^^ s.fAddrN = 0xFF#8 ∧ s.fCmd ^^^ s.fCmdN = 0xFF#8 then true else s.ready) ∧
      u.dstate = .awaitLeaderHigh ∧ u.armed = .falling ∧ u.bitIndex = 0#5 ∧
      Frame [.ready, .dstate, .armed, .bitIndex] s u ∧ StoreFrame [] s u

/-- `MISMATCH` (R120): selected where no row of the table holds, the two (state, direction) pairs without a row among
them for every interval; the local reset; frame, DecodedFrame bytes and `ready` keep their values. -/
def Obligations.MismatchResetsLocally : Prop :=
  ∀ (s : State) (ds : DState) (d : Direction) (t : Nat),
    (s.cfg.valid → (selectDecoderOp s.cfg ds d t = .mismatch ↔ ∀ op, ¬ TableRow s.cfg ds d t op)) ∧
    selectDecoderOp s.cfg .awaitLeaderLow .rising t = .mismatch ∧
    selectDecoderOp s.cfg .awaitStop .falling t = .mismatch ∧
    ∃ u, exec (.mismatch ds d t) s = .next u ∧
      u.dstate = .awaitLeaderHigh ∧ u.armed = .falling ∧ u.bitIndex = 0#5 ∧
      Frame [.dstate, .armed, .bitIndex] s u ∧ StoreFrame [] s u

/-- A well-formed frame (41 R121): from AwaitLeaderHigh with Falling armed and the line idle, 68 transitions whose
intervals lie anywhere inside the windows of their symbols deliver the word `w`, whatever it is: the decoder ends where
it began, the frame register holds `w`, the DecodedFrame registers its four bytes, and `ready` is set exactly when it
was set already or both byte pairs are complements. -/
def Obligations.WellFormedFrameIsDecoded : Prop :=
  ∀ (s : State) (w : FrameWord) (t0 leaderMark leaderSpace : Nat) (mark space : Nat → Nat) (stop : Nat)
    (rest : List Event),
    s.cfg.valid → s.tick < 2 ^ s.cfg.tickBits → s.dstate = .awaitLeaderHigh → s.armed = .falling → s.irPrev = true →
    inwin s.cfg leaderMark .lh = true → inwin s.cfg leaderSpace .ll = true →
    (∀ i < 32, inwin s.cfg (mark i) .mk = true) →
    (∀ i < 32, inwin s.cfg (space i) (if w.getLsbD i then .s1 else .s0) = true) →
    inwin s.cfg stop .mk = true →
    leaderSpace < 2 ^ s.cfg.tickBits → (∀ i < 32, mark i < 2 ^ s.cfg.tickBits ∧ space i < 2 ^ s.cfg.tickBits) →
    stop < 2 ^ s.cfg.tickBits →
    s.pending = frameEvents t0 leaderMark leaderSpace mark space stop ++ rest →
    ∃ t, runSteps (frameEvents t0 leaderMark leaderSpace mark space stop).length s = .next t ∧
      t.dstate = .awaitLeaderHigh ∧ t.armed = .falling ∧ t.bitIndex = 0#5 ∧ t.tick = 0 ∧ t.irPrev = true ∧
      t.frame = w ∧
      t.fAddr = w.extractLsb' 0 8 ∧ t.fAddrN = w.extractLsb' 8 8 ∧
      t.fCmd = w.extractLsb' 16 8 ∧ t.fCmdN = w.extractLsb' 24 8 ∧
      (t.ready = true ↔ s.ready = true ∨ (t.fAddr ^^^ t.fAddrN = 0xFF#8 ∧ t.fCmd ^^^ t.fCmdN = 0xFF#8)) ∧
      Frame [.dstate, .armed, .bitIndex, .tick, .irPrev, .frame, .fAddr, .fAddrN, .fCmd, .fCmdN, .ready, .ltimer]
        { s with pending := rest } t ∧
      StoreFrame [] s t

/-! ### KeyMapper

Each statement of this section and the next also says exactly when the state selects its operation (30_encoding R79,
43 R150). -/

/-- `BOOT_SELECT` (R131): slot 0 = 0xFF begins learning at channel 0, any other value selects the load; `ready` is not
touched. -/
def Obligations.BootSelectReadsSentinel : Prop :=
  ∀ s : State, (s.mainOp = .bootSelect ↔ s.mstate = .boot) ∧ ∃ t, exec .bootSelect s = .next t ∧
    (memRead s.store 0 = 0xFF#8 → t.lidx = 0 ∧ t.mstate = .learnBegin) ∧
    (memRead s.store 0 ≠ 0xFF#8 → t.lidx = s.lidx ∧ t.mstate = .load) ∧
    Frame [.lidx, .mstate] s t ∧ StoreFrame [] s t

/-- `KEY_LOAD` (R132): `KeyMap[j]` is the byte of slot j + 1, for every j below K, unchecked. -/
def Obligations.KeyLoadCopiesSlots : Prop :=
  ∀ s : State, (s.mainOp = .keyLoad ↔ s.mstate = .load) ∧ ∃ t, exec .keyLoad s = .next t ∧
    t.keyMap.length = s.cfg.k ∧ (∀ j < s.cfg.k, t.keyMap[j]? = some (memRead s.store (j + 1))) ∧
    t.statusMode = .solid ∧ t.mstate = .normal ∧
    Frame [.keyMap, .statusMode, .mstate] s t ∧ StoreFrame [] s t

/-- `LEARN_BEGIN` (R133): the indicator of channel `lidx` on, the others unchanged, the blink started lit. -/
def Obligations.LearnBeginLightsChannel : Prop :=
  ∀ s : State, s.lidx < s.ch.length → (s.mainOp = .learnBegin ↔ s.mstate = .learnBegin) ∧
    ∃ t, exec .learnBegin s = .next t ∧
    (∀ i, t.ch[i]? = if i = s.lidx then some true else s.ch[i]?) ∧
    t.statusMode = .blink ∧ t.blinkPhase = true ∧ t.ltimer = s.cfg.blinkHalfTicks ∧ t.mstate = .learnWait ∧
    Frame [.ch, .statusMode, .blinkPhase, .ltimer, .mstate] s t ∧ StoreFrame [] s t

/-- `LEARN_STORE` (R134): the command is learned for channel `lidx` and written through to slot `lidx` + 1; `ready`
stays as it is. That this holds of the command 0xFF too, where R134 stands against a remark of R138, is the model's
choice (log 23). -/
def Obligations.LearnStoreWritesThrough : Prop :=
  ∀ s : State, s.WellFormed →
    (s.mainOp = .learnStore ↔ s.mstate = .learnWait ∧ s.ready = true ∧ s.fCmd ≠ s.cfg.relearnCode) ∧
    ∃ t, exec .learnStore s = .next t ∧
    (∀ i, t.keyMap[i]? = if i = s.lidx then some s.fCmd else s.keyMap[i]?) ∧
    memRead t.store (s.lidx + 1) = s.fCmd ∧
    t.statusMode = .solid ∧ t.ltimer = s.cfg.confirmTicks ∧ t.mstate = .learnHold ∧
    Frame [.keyMap, .statusMode, .ltimer, .mstate] s t ∧ StoreFrame [s.lidx + 1] s t

/-- `LEARN_STORE` with `lidx` at or above K, which no reachable state has, stops: the block addresses no slot above K
(10_state R35; the fault is the model's: log 13). -/
def Obligations.LearnStoreAboveKFaults : Prop :=
  ∀ s : State, s.cfg.k ≤ s.lidx → exec .learnStore s = .fault (.noSuchSlot (s.lidx + 1))

/-- `LEARN_WAIT` (R135): the blink toggles and its half period starts again when `ltimer` is 0; otherwise nothing is
written. A pending frame is not consumed. -/
def Obligations.LearnWaitBlinks : Prop :=
  ∀ s : State, (s.mainOp = .learnWait ↔ s.mstate = .learnWait ∧ ¬ (s.ready = true ∧ s.fCmd ≠ s.cfg.relearnCode)) ∧ ∃ t, exec .learnWait s = .next t ∧
    (s.ltimer = 0 → t.blinkPhase = !s.blinkPhase ∧ t.ltimer = s.cfg.blinkHalfTicks) ∧
    (s.ltimer ≠ 0 → t.blinkPhase = s.blinkPhase ∧ t.ltimer = s.ltimer) ∧
    Frame [.blinkPhase, .ltimer] s t ∧ StoreFrame [] s t

/-- `LEARN_HOLD` (R136) writes nothing. -/
def Obligations.LearnHoldWritesNothing : Prop :=
  ∀ s : State, (s.mainOp = .learnHold ↔ s.mstate = .learnHold ∧ s.ltimer ≠ 0) ∧ ∃ t, exec .learnHold s = .next t ∧ Frame [] s t ∧ StoreFrame [] s t

/-- `LEARN_NEXT` (R137): the indicator off, the consumed frame cleared, the next channel or Commit. -/
def Obligations.LearnNextClearsFrame : Prop :=
  ∀ s : State, s.lidx < s.ch.length → (s.mainOp = .learnNext ↔ s.mstate = .learnHold ∧ s.ltimer = 0) ∧
    ∃ t, exec .learnNext s = .next t ∧
    (∀ i, t.ch[i]? = if i = s.lidx then some false else s.ch[i]?) ∧ t.ready = false ∧
    (s.lidx + 1 < s.cfg.k → t.lidx = s.lidx + 1 ∧ t.mstate = .learnBegin) ∧
    (s.cfg.k ≤ s.lidx + 1 → t.lidx = 0 ∧ t.mstate = .commit) ∧
    Frame [.ch, .ready, .lidx, .mstate] s t ∧ StoreFrame [] s t

/-- `LEARN_COMMIT` (R138): slot 0 becomes 0x00 and no other slot changes; the indicator solid, Normal mode. R138's
remark that the block never writes 0xFF anywhere is not claimed (log 23). -/
def Obligations.LearnCommitWritesSentinel : Prop :=
  ∀ s : State, Memory.wf s.store → (s.mainOp = .learnCommit ↔ s.mstate = .commit) ∧
    ∃ t, exec .learnCommit s = .next t ∧
    memRead t.store 0 = 0x00#8 ∧ t.statusMode = .solid ∧ t.mstate = .normal ∧
    Frame [.statusMode, .mstate] s t ∧ StoreFrame [0] s t

/-- The first two main-loop steps after reset (70 R191): Normal mode with the stored keys and the status line lit, or,
on an uninitialized store, channel 0 lit and waiting to learn. -/
def Obligations.BootTakesTwoMainSteps : Prop :=
  ∀ (c : Config) (m : Memory) (rest : List Event), c.valid → ∃ t,
    runSteps 2 (State.resetWith c m (.main :: .main :: rest)) = .next t ∧ t.pending = rest ∧ t.ports.status = true ∧
    (∀ a, memRead t.store a = memRead m a) ∧
    (memRead m 0 ≠ 0xFF#8 →
      t.mstate = .normal ∧ (∀ j < c.k, t.keyMap[j]? = some (memRead m (j + 1)) ∧ t.ch[j]? = some false)) ∧
    (memRead m 0 = 0xFF#8 →
      t.mstate = .learnWait ∧ t.lidx = 0 ∧ ∀ j < c.k, t.ch[j]? = some (decide (j = 0)))

/-! ### CommandDispatcher -/

/-- `POLL_IDLE` (R154) writes nothing. -/
def Obligations.PollIdleWritesNothing : Prop :=
  ∀ s : State, (s.mainOp = .pollIdle ↔ s.mstate = .normal ∧ s.ready = false) ∧ ∃ t, exec .pollIdle s = .next t ∧ Frame [] s t ∧ StoreFrame [] s t

/-- `RELEARN` (R151): the frame is consumed and learning begins at channel 0; channels, KeyMap, status and every store
slot, the sentinel among them, keep their values. -/
def Obligations.RelearnRestartsLearning : Prop :=
  ∀ s : State, (s.mainOp = .relearn ↔ s.mstate = .normal ∧ s.ready = true ∧ s.fCmd = s.cfg.relearnCode) ∧ ∃ t, exec .relearn s = .next t ∧
    t.ready = false ∧ t.lidx = 0 ∧ t.mstate = .learnBegin ∧
    Frame [.ready, .lidx, .mstate] s t ∧ StoreFrame [] s t

/-- `ALL_OFF` (R152): every channel off, whatever it was; the frame is consumed. -/
def Obligations.AllOffForcesChannelsOff : Prop :=
  ∀ s : State,
    (s.cfg.valid → (s.mainOp = .allOff ↔ s.mstate = .normal ∧ s.ready = true ∧ s.fCmd = 0x02#8)) ∧
    ∃ t, exec .allOff s = .next t ∧
    t.ch.length = s.ch.length ∧ (∀ i < s.ch.length, t.ch[i]? = some false) ∧ t.ready = false ∧
    Frame [.ch, .ready] s t ∧ StoreFrame [] s t

/-- `DISPATCH` (R153): exactly the channels whose learned code is the command toggle; the frame is consumed whether or
not one matches. -/
def Obligations.DispatchTogglesMatches : Prop :=
  ∀ s : State, (s.mainOp = .dispatch ↔ s.mstate = .normal ∧ s.ready = true ∧ s.fCmd ≠ s.cfg.relearnCode ∧ s.fCmd ≠ 0x02#8) ∧ ∃ t, exec .dispatch s = .next t ∧
    t.ch.length = s.ch.length ∧
    (∀ (i : Nat) (code : Byte) (level : Bool), s.keyMap[i]? = some code → s.ch[i]? = some level →
      t.ch[i]? = some (if code = s.fCmd then !level else level)) ∧
    t.ready = false ∧ Frame [.ch, .ready] s t ∧ StoreFrame [] s t

/-- "A second identical command reverts it" (43 R153): dispatching the same command twice restores every channel. -/
def Obligations.DispatchTwiceRestoresChannels : Prop :=
  ∀ s : State, ∃ t u, exec .dispatch s = .next t ∧ exec .dispatch { t with ready := true } = .next u ∧ u.ch = s.ch

/-! ### The line level -/

/-- Transitions alternate (10_state R33). After one clock of the clocked form without reset, at most three machine
steps (log 8), `ir_prev` is the level `ir_in` of that clock (40 R104). In the event form a transition runs and records
its level; a `FALL` or `RISE` on a line that already holds its level has no effect: one of the unarmed polarity is an
`EDGE_IGNORED` that changes nothing, one of the armed polarity is no transition, and the step is the one without it.
That reading of R33 beside 40 R102 is the model's (log 6). -/
def Obligations.LineTransitionsAlternate : Prop :=
  ∀ (s : State) (rest : List Event),
    (∀ tickEn irIn : Bool, s.WellFormed → s.pending = .clock false tickEn irIn :: rest →
      ∃ n t, n ≤ 3 ∧ runSteps n s = .next t ∧ t.pending = rest ∧ t.irPrev = irIn) ∧
    (∀ d : Direction, s.WellFormed → s.pending = .line d :: rest → levelAfter d ≠ s.irPrev →
      ∃ t, step s = .next t ∧ t.pending = rest ∧ t.irPrev = levelAfter d) ∧
    (∀ d : Direction, s.cfg.valid → s.pending = .line d :: rest → levelAfter d = s.irPrev → d ≠ s.armed →
      step s = .next { s with pending := rest }) ∧
    (∀ d : Direction, s.pending = .line d :: rest → levelAfter d = s.irPrev → d = s.armed →
      step s = step { s with pending := rest }) ∧
    (∀ (d : Direction) (o : TickOutcome), s.pending = .together d o :: rest → levelAfter d = s.irPrev → d = s.armed →
      step s = step { s with pending := .tick :: rest })
end

