-- ==== Sys2Proof/Laws/Memory.lean ====
section
/-!
SUPPORT. The laws of the PersistentStore's two primitives (20_memory R52): a read sees the last write, a write leaves
every other slot alone, and the canonical form is kept.
-/

namespace Sys2Proof.Machine

open Sys2Proof

/-- A memory in canonical form whose slots all lie above `a` reads the unlisted byte at `a`. -/
theorem memRead_of_lt (m : Memory) (a : Nat) (h : ∀ c ∈ m, a < c.1) : memRead m a = unlistedByte := by
  induction m with
  | nil => rfl
  | cons c rest ih =>
    obtain ⟨b, v⟩ := c
    have hb : a < b := h (b, v) (by simp)
    have : b ≠ a := by omega
    simp only [memRead, this, if_false]
    exact ih fun c hc => h c (by simp [hc])

/-- The first slot of a canonical memory lies below all the others. -/
theorem Memory.wf_cons {b : Nat} {v : Byte} {rest : Memory} (h : Memory.wf ((b, v) :: rest)) :
    (∀ c ∈ rest, b < c.1) ∧ b < 256 ∧ v ≠ unlistedByte ∧ Memory.wf rest := by
  obtain ⟨hp, hall⟩ := h
  simp only [List.map_cons, List.pairwise_cons, List.mem_map] at hp
  have h0 := hall (b, v) (by simp)
  exact ⟨fun c hc => hp.1 c.1 ⟨c, hc, rfl⟩, h0.1, h0.2, hp.2, fun c hc => hall c (by simp [hc])⟩

theorem Memory.wf_cons_of {b : Nat} {v : Byte} {rest : Memory} (hlt : ∀ c ∈ rest, b < c.1) (hb : b < 256)
    (hv : v ≠ unlistedByte) (h : Memory.wf rest) : Memory.wf ((b, v) :: rest) := by
  refine ⟨?_, ?_⟩
  · simp only [List.map_cons, List.pairwise_cons, List.mem_map]
    exact ⟨fun x ⟨c, hc, hx⟩ => hx ▸ hlt c hc, h.1⟩
  · intro c hc
    rcases List.mem_cons.mp hc with rfl | hc
    · exact ⟨hb, hv⟩
    · exact h.2 c hc

/-- The slots of a memory after a write: the ones it had, and the one written. -/
theorem memWrite_slots (m : Memory) (a : Nat) (v : Byte) :
    ∀ c ∈ memWrite m a v, c.1 = a ∨ c ∈ m := by
  induction m with
  | nil =>
    intro c hc
    by_cases hv : v = unlistedByte <;> simp [memWrite, hv] at hc
    exact .inl (by rw [hc])
  | cons d rest ih =>
    obtain ⟨b, w⟩ := d
    intro c hc
    by_cases h1 : a < b
    · by_cases hv : v = unlistedByte
      · simp only [memWrite, h1, hv, if_true] at hc
        exact .inr hc
      · simp only [memWrite, h1, hv, if_true, if_false] at hc
        rcases List.mem_cons.mp hc with rfl | hc
        · exact .inl rfl
        · exact .inr hc
    · by_cases h2 : a = b
      · by_cases hv : v = unlistedByte
        · simp only [memWrite, h2, hv, Nat.lt_irrefl, if_true, if_false] at hc
          exact .inr (List.mem_cons_of_mem _ hc)
        · simp only [memWrite, h2, hv, Nat.lt_irrefl, if_true, if_false] at hc
          rcases List.mem_cons.mp hc with rfl | hc
          · exact .inl (by simp [h2])
          · exact .inr (List.mem_cons_of_mem _ hc)
      · simp only [memWrite, h1, h2, if_false] at hc
        rcases List.mem_cons.mp hc with rfl | hc
        · exact .inr (by simp)
        · rcases ih c hc with h | h
          · exact .inl h
          · exact .inr (List.mem_cons_of_mem _ h)

/-- Every memory operation keeps the canonical form; `memWrite` is the only one that changes a memory. -/
theorem memWrite_wf {m : Memory} (h : Memory.wf m) {a : Nat} (ha : a < 256) (v : Byte) :
    Memory.wf (memWrite m a v) := by
  induction m with
  | nil =>
    by_cases hv : v = unlistedByte
    · simp [memWrite, hv, Memory.wf]
    · simp [memWrite, hv, Memory.wf, ha]
  | cons d rest ih =>
    obtain ⟨b, w⟩ := d
    obtain ⟨hlt, hb, hw, hrest⟩ := Memory.wf_cons h
    by_cases h1 : a < b
    · by_cases hv : v = unlistedByte
      · simpa only [memWrite, h1, hv, if_true] using h
      · simp only [memWrite, h1, hv, if_true, if_false]
        refine Memory.wf_cons_of ?_ ha hv h
        intro c hc
        rcases List.mem_cons.mp hc with rfl | hc
        · exact h1
        · exact Nat.lt_trans h1 (hlt c hc)
    · by_cases h2 : a = b
      · by_cases hv : v = unlistedByte
        · simpa only [memWrite, h1, h2, hv, Nat.lt_irrefl, if_true, if_false] using hrest
        · subst h2
          simp only [memWrite, hv, Nat.lt_irrefl, if_true, if_false]
          exact Memory.wf_cons_of hlt ha hv hrest
      · simp only [memWrite, h1, h2, if_false]
        refine Memory.wf_cons_of ?_ hb hw (ih hrest)
        intro c hc
        rcases memWrite_slots rest a v c hc with h | h
        · omega
        · exact hlt c h

/-- A read sees the last write of its slot. -/
theorem memRead_memWrite_same {m : Memory} (h : Memory.wf m) (a : Nat) (v : Byte) :
    memRead (memWrite m a v) a = v := by
  induction m with
  | nil =>
    by_cases hv : v = unlistedByte <;> simp [memWrite, memRead, hv]
  | cons d rest ih =>
    obtain ⟨b, w⟩ := d
    obtain ⟨hlt, -, -, hrest⟩ := Memory.wf_cons h
    by_cases h1 : a < b
    · by_cases hv : v = unlistedByte
      · simp only [memWrite, h1, hv, if_true]
        refine memRead_of_lt _ _ fun c hc => ?_
        rcases List.mem_cons.mp hc with rfl | hc
        · exact h1
        · exact Nat.lt_trans h1 (hlt c hc)
      · simp [memWrite, h1, hv, memRead]
    · by_cases h2 : a = b
      · subst h2
        by_cases hv : v = unlistedByte
        · simp only [memWrite, Nat.lt_irrefl, hv, if_true, if_false]
          exact memRead_of_lt _ _ hlt
        · simp [memWrite, hv, memRead]
      · have : b ≠ a := fun h => h2 h.symm
        simp only [memWrite, h1, h2, if_false, memRead, this]
        exact ih hrest

/-- A write leaves every other slot alone. -/
theorem memRead_memWrite_ne (m : Memory) {a x : Nat} (v : Byte) (hx : x ≠ a) :
    memRead (memWrite m a v) x = memRead m x := by
  have hx' : a ≠ x := fun h => hx h.symm
  induction m with
  | nil => by_cases hv : v = unlistedByte <;> simp [memWrite, memRead, hv, hx']
  | cons d rest ih =>
    obtain ⟨b, w⟩ := d
    by_cases h1 : a < b
    · by_cases hv : v = unlistedByte <;> simp [memWrite, h1, hv, memRead, hx']
    · by_cases h2 : a = b
      · subst h2
        by_cases hv : v = unlistedByte <;> simp [memWrite, hv, memRead, hx']
      · simp only [memWrite, h1, h2, if_false, memRead, ih]

end Sys2Proof.Machine
end

