-- ==== Sys2Proof/Laws/State.lean ====
section
/-!
SUPPORT. One lemma per field per named update of the state, so that no proof unfolds a record update.
-/

namespace Sys2Proof.Machine

open Sys2Proof

/-! ### The decoder's local reset -/

@[simp] theorem decoderReset_cfg (s : State) : (decoderReset s).cfg = s.cfg := rfl
@[simp] theorem decoderReset_tick (s : State) : (decoderReset s).tick = s.tick := rfl
@[simp] theorem decoderReset_frame (s : State) : (decoderReset s).frame = s.frame := rfl
@[simp] theorem decoderReset_bitIndex (s : State) : (decoderReset s).bitIndex = 0 := rfl
@[simp] theorem decoderReset_fAddr (s : State) : (decoderReset s).fAddr = s.fAddr := rfl
@[simp] theorem decoderReset_fAddrN (s : State) : (decoderReset s).fAddrN = s.fAddrN := rfl
@[simp] theorem decoderReset_fCmd (s : State) : (decoderReset s).fCmd = s.fCmd := rfl
@[simp] theorem decoderReset_fCmdN (s : State) : (decoderReset s).fCmdN = s.fCmdN := rfl
@[simp] theorem decoderReset_keyMap (s : State) : (decoderReset s).keyMap = s.keyMap := rfl
@[simp] theorem decoderReset_ch (s : State) : (decoderReset s).ch = s.ch := rfl
@[simp] theorem decoderReset_dstate (s : State) : (decoderReset s).dstate = .awaitLeaderHigh := rfl
@[simp] theorem decoderReset_mstate (s : State) : (decoderReset s).mstate = s.mstate := rfl
@[simp] theorem decoderReset_lidx (s : State) : (decoderReset s).lidx = s.lidx := rfl
@[simp] theorem decoderReset_ready (s : State) : (decoderReset s).ready = s.ready := rfl
@[simp] theorem decoderReset_armed (s : State) : (decoderReset s).armed = .falling := rfl
@[simp] theorem decoderReset_statusMode (s : State) : (decoderReset s).statusMode = s.statusMode := rfl
@[simp] theorem decoderReset_blinkPhase (s : State) : (decoderReset s).blinkPhase = s.blinkPhase := rfl
@[simp] theorem decoderReset_ltimer (s : State) : (decoderReset s).ltimer = s.ltimer := rfl
@[simp] theorem decoderReset_irPrev (s : State) : (decoderReset s).irPrev = s.irPrev := rfl
@[simp] theorem decoderReset_store (s : State) : (decoderReset s).store = s.store := rfl
@[simp] theorem decoderReset_pending (s : State) : (decoderReset s).pending = s.pending := rfl

@[simp] theorem raiseTimingMismatch_eq (s : State) : raiseTimingMismatch s = decoderReset s := rfl
@[simp] theorem raiseChecksumFailure_eq (s : State) : raiseChecksumFailure s = decoderReset s := rfl

/-! ### UninitializedStore -/

@[simp] theorem raiseUninitializedStore_cfg (s : State) : (raiseUninitializedStore s).cfg = s.cfg := rfl
@[simp] theorem raiseUninitializedStore_tick (s : State) : (raiseUninitializedStore s).tick = s.tick := rfl
@[simp] theorem raiseUninitializedStore_frame (s : State) : (raiseUninitializedStore s).frame = s.frame := rfl
@[simp] theorem raiseUninitializedStore_bitIndex (s : State) : (raiseUninitializedStore s).bitIndex = s.bitIndex := rfl
@[simp] theorem raiseUninitializedStore_fAddr (s : State) : (raiseUninitializedStore s).fAddr = s.fAddr := rfl
@[simp] theorem raiseUninitializedStore_fAddrN (s : State) : (raiseUninitializedStore s).fAddrN = s.fAddrN := rfl
@[simp] theorem raiseUninitializedStore_fCmd (s : State) : (raiseUninitializedStore s).fCmd = s.fCmd := rfl
@[simp] theorem raiseUninitializedStore_fCmdN (s : State) : (raiseUninitializedStore s).fCmdN = s.fCmdN := rfl
@[simp] theorem raiseUninitializedStore_keyMap (s : State) : (raiseUninitializedStore s).keyMap = s.keyMap := rfl
@[simp] theorem raiseUninitializedStore_ch (s : State) : (raiseUninitializedStore s).ch = s.ch := rfl
@[simp] theorem raiseUninitializedStore_dstate (s : State) : (raiseUninitializedStore s).dstate = s.dstate := rfl
@[simp] theorem raiseUninitializedStore_mstate (s : State) : (raiseUninitializedStore s).mstate = .learnBegin := rfl
@[simp] theorem raiseUninitializedStore_lidx (s : State) : (raiseUninitializedStore s).lidx = 0 := rfl
@[simp] theorem raiseUninitializedStore_ready (s : State) : (raiseUninitializedStore s).ready = s.ready := rfl
@[simp] theorem raiseUninitializedStore_armed (s : State) : (raiseUninitializedStore s).armed = s.armed := rfl
@[simp] theorem raiseUninitializedStore_statusMode (s : State) : (raiseUninitializedStore s).statusMode = s.statusMode := rfl
@[simp] theorem raiseUninitializedStore_blinkPhase (s : State) : (raiseUninitializedStore s).blinkPhase = s.blinkPhase := rfl
@[simp] theorem raiseUninitializedStore_ltimer (s : State) : (raiseUninitializedStore s).ltimer = s.ltimer := rfl
@[simp] theorem raiseUninitializedStore_irPrev (s : State) : (raiseUninitializedStore s).irPrev = s.irPrev := rfl
@[simp] theorem raiseUninitializedStore_store (s : State) : (raiseUninitializedStore s).store = s.store := rfl
@[simp] theorem raiseUninitializedStore_pending (s : State) : (raiseUninitializedStore s).pending = s.pending := rfl

/-! ### SHIFT_IN -/

@[simp] theorem shiftIn_cfg (b : Bool) (s : State) : (shiftIn b s).cfg = s.cfg := rfl
@[simp] theorem shiftIn_tick (b : Bool) (s : State) : (shiftIn b s).tick = s.tick := rfl
@[simp] theorem shiftIn_frame (b : Bool) (s : State) : (shiftIn b s).frame = setFrameBit s.frame s.bitIndex.toNat b := rfl
@[simp] theorem shiftIn_bitIndex (b : Bool) (s : State) : (shiftIn b s).bitIndex = s.bitIndex + 1 := rfl
@[simp] theorem shiftIn_fAddr (b : Bool) (s : State) : (shiftIn b s).fAddr =
    if s.bitIndex.toNat = 7 then frameByte (setFrameBit s.frame s.bitIndex.toNat b) 0 else s.fAddr := rfl
@[simp] theorem shiftIn_fAddrN (b : Bool) (s : State) : (shiftIn b s).fAddrN =
    if s.bitIndex.toNat = 15 then frameByte (setFrameBit s.frame s.bitIndex.toNat b) 1 else s.fAddrN := rfl
@[simp] theorem shiftIn_fCmd (b : Bool) (s : State) : (shiftIn b s).fCmd =
    if s.bitIndex.toNat = 23 then frameByte (setFrameBit s.frame s.bitIndex.toNat b) 2 else s.fCmd := rfl
@[simp] theorem shiftIn_fCmdN (b : Bool) (s : State) : (shiftIn b s).fCmdN =
    if s.bitIndex.toNat = 31 then frameByte (setFrameBit s.frame s.bitIndex.toNat b) 3 else s.fCmdN := rfl
@[simp] theorem shiftIn_keyMap (b : Bool) (s : State) : (shiftIn b s).keyMap = s.keyMap := rfl
@[simp] theorem shiftIn_ch (b : Bool) (s : State) : (shiftIn b s).ch = s.ch := rfl
@[simp] theorem shiftIn_dstate (b : Bool) (s : State) : (shiftIn b s).dstate = if s.bitIndex.toNat = 31 then .awaitStop else s.dstate := rfl
@[simp] theorem shiftIn_mstate (b : Bool) (s : State) : (shiftIn b s).mstate = s.mstate := rfl
@[simp] theorem shiftIn_lidx (b : Bool) (s : State) : (shiftIn b s).lidx = s.lidx := rfl
@[simp] theorem shiftIn_ready (b : Bool) (s : State) : (shiftIn b s).ready = s.ready := rfl
@[simp] theorem shiftIn_armed (b : Bool) (s : State) : (shiftIn b s).armed = .rising := rfl
@[simp] theorem shiftIn_statusMode (b : Bool) (s : State) : (shiftIn b s).statusMode = s.statusMode := rfl
@[simp] theorem shiftIn_blinkPhase (b : Bool) (s : State) : (shiftIn b s).blinkPhase = s.blinkPhase := rfl
@[simp] theorem shiftIn_ltimer (b : Bool) (s : State) : (shiftIn b s).ltimer = s.ltimer := rfl
@[simp] theorem shiftIn_irPrev (b : Bool) (s : State) : (shiftIn b s).irPrev = s.irPrev := rfl
@[simp] theorem shiftIn_store (b : Bool) (s : State) : (shiftIn b s).store = s.store := rfl
@[simp] theorem shiftIn_pending (b : Bool) (s : State) : (shiftIn b s).pending = s.pending := rfl

/-! ### The state after reset -/

@[simp] theorem resetWith_cfg (c : Config) (m : Memory) (p : List Event) :
    (State.resetWith c m p).cfg = c := rfl
@[simp] theorem resetWith_tick (c : Config) (m : Memory) (p : List Event) :
    (State.resetWith c m p).tick = 0 := rfl
@[simp] theorem resetWith_frame (c : Config) (m : Memory) (p : List Event) :
    (State.resetWith c m p).frame = 0 := rfl
@[simp] theorem resetWith_bitIndex (c : Config) (m : Memory) (p : List Event) :
    (State.resetWith c m p).bitIndex = 0 := rfl
@[simp] theorem resetWith_fAddr (c : Config) (m : Memory) (p : List Event) :
    (State.resetWith c m p).fAddr = 0 := rfl
@[simp] theorem resetWith_fAddrN (c : Config) (m : Memory) (p : List Event) :
    (State.resetWith c m p).fAddrN = 0 := rfl
@[simp] theorem resetWith_fCmd (c : Config) (m : Memory) (p : List Event) :
    (State.resetWith c m p).fCmd = 0 := rfl
@[simp] theorem resetWith_fCmdN (c : Config) (m : Memory) (p : List Event) :
    (State.resetWith c m p).fCmdN = 0 := rfl
@[simp] theorem resetWith_keyMap (c : Config) (m : Memory) (p : List Event) :
    (State.resetWith c m p).keyMap = List.replicate c.k 0 := rfl
@[simp] theorem resetWith_ch (c : Config) (m : Memory) (p : List Event) :
    (State.resetWith c m p).ch = List.replicate c.k false := rfl
@[simp] theorem resetWith_dstate (c : Config) (m : Memory) (p : List Event) :
    (State.resetWith c m p).dstate = .awaitLeaderHigh := rfl
@[simp] theorem resetWith_mstate (c : Config) (m : Memory) (p : List Event) :
    (State.resetWith c m p).mstate = .boot := rfl
@[simp] theorem resetWith_lidx (c : Config) (m : Memory) (p : List Event) :
    (State.resetWith c m p).lidx = 0 := rfl
@[simp] theorem resetWith_ready (c : Config) (m : Memory) (p : List Event) :
    (State.resetWith c m p).ready = false := rfl
@[simp] theorem resetWith_armed (c : Config) (m : Memory) (p : List Event) :
    (State.resetWith c m p).armed = .falling := rfl
@[simp] theorem resetWith_statusMode (c : Config) (m : Memory) (p : List Event) :
    (State.resetWith c m p).statusMode = .off := rfl
@[simp] theorem resetWith_blinkPhase (c : Config) (m : Memory) (p : List Event) :
    (State.resetWith c m p).blinkPhase = false := rfl
@[simp] theorem resetWith_ltimer (c : Config) (m : Memory) (p : List Event) :
    (State.resetWith c m p).ltimer = 0 := rfl
@[simp] theorem resetWith_irPrev (c : Config) (m : Memory) (p : List Event) :
    (State.resetWith c m p).irPrev = true := rfl
@[simp] theorem resetWith_store (c : Config) (m : Memory) (p : List Event) :
    (State.resetWith c m p).store = m := rfl
@[simp] theorem resetWith_pending (c : Config) (m : Memory) (p : List Event) :
    (State.resetWith c m p).pending = p := rfl

end Sys2Proof.Machine
end

