-- ==== Sys2Proof/Laws/Ops.lean ====
section
/-!
SUPPORT. What each shared operation can do, said once: the checked store write, the load of the keys, the delay
counter, and the bits and bytes of the frame.
-/

namespace Sys2Proof.Machine

open Sys2Proof

/-- A checked write that succeeds changed the store at one existing slot and nothing else. -/
theorem writeSlot_ok {s t : State} {a : Nat} {v : Byte} :
    writeSlot s a v = .ok t ↔ a ≤ s.cfg.k ∧ t = { s with store := memWrite s.store a v } := by
  unfold writeSlot
  split
  · simp_all [eq_comm]
  · simp_all

/-- A checked write that does not succeed names the slot that does not exist. -/
theorem writeSlot_error {s : State} {a : Nat} {v : Byte} {f : Fault} :
    writeSlot s a v = .error f ↔ s.cfg.k < a ∧ f = .noSuchSlot a := by
  unfold writeSlot
  split
  · simp only [reduceCtorEq, false_iff, not_and]
    intro h
    omega
  · simp only [Except.error.injEq, eq_comm]
    constructor
    · intro h
      exact ⟨by omega, h⟩
    · exact fun h => h.2

@[simp] theorem writeSlot_of_le {s : State} {a : Nat} (v : Byte) (h : a ≤ s.cfg.k) :
    writeSlot s a v = .ok { s with store := memWrite s.store a v } := writeSlot_ok.mpr ⟨h, rfl⟩

@[simp] theorem done_eq (s : State) : done s = .next s := rfl
@[simp] theorem ofWrite_ok (s : State) : ofWrite (.ok s) = .next s := rfl
@[simp] theorem ofWrite_error (f : Fault) : ofWrite (.error f) = .fault f := rfl

/-- The loaded keys are the bytes of slots 1..K, in channel order. -/
theorem readKeys_getElem? (m : Memory) (k i : Nat) (h : i < k) :
    (readKeys m k)[i]? = some (memRead m (slotOf i)) := by
  simp [readKeys, h]

@[simp] theorem readKeys_length (m : Memory) (k : Nat) : (readKeys m k).length = k := by simp [readKeys]

@[simp] theorem countDown_eq (n : Nat) : countDown n = n - 1 := by
  unfold countDown
  split <;> omega

/-- Writing a frame bit changes that bit and no other (10_state R22). -/
theorem getLsbD_setFrameBit (f : FrameWord) (i j : Nat) (b : Bool) (hi : i < 32) (hj : j < 32) :
    (setFrameBit f i b).getLsbD j = if j = i then b else f.getLsbD j := by
  have key : ∀ i j : Fin 32, (1#32 <<< (i : Nat)).getLsbD j = decide ((j : Nat) = i) := by decide
  have k := key ⟨i, hi⟩ ⟨j, hj⟩
  dsimp only at k
  unfold setFrameBit
  cases b
  · rw [if_neg (by simp), BitVec.getLsbD_and, BitVec.getLsbD_not, k]
    by_cases h : j = i <;> simp [h, hj, hi]
  · rw [if_pos rfl, BitVec.getLsbD_or, k]
    by_cases h : j = i <;> simp [h]

/-- The bits of a frame byte. -/
theorem getLsbD_frameByte (f : FrameWord) (j n : Nat) (hn : n < 8) :
    (frameByte f j).getLsbD n = f.getLsbD (8 * j + n) := by
  simp [frameByte, hn]

/-- Writing a bit outside a byte leaves the byte. -/
theorem frameByte_setFrameBit (f : FrameWord) (i j : Nat) (b : Bool) (hi : i < 32) (hj : j < 4)
    (h : i < 8 * j ∨ 8 * j + 8 ≤ i) : frameByte (setFrameBit f i b) j = frameByte f j := by
  apply BitVec.eq_of_getLsbD_eq
  intro n hn
  rw [getLsbD_frameByte _ _ _ hn, getLsbD_frameByte _ _ _ hn,
    getLsbD_setFrameBit f i (8 * j + n) b hi (by omega)]
  have : 8 * j + n ≠ i := by omega
  simp [this]

/-- The next bit position as a number. -/
theorem bitIndex_succ_toNat (i : BitIndex) : (i + 1).toNat = if i.toNat = 31 then 0 else i.toNat + 1 := by
  revert i
  decide

end Sys2Proof.Machine
end

