-- ==== Sys2Proof/Laws/Decoder.lean ====
section
/-!
SUPPORT. What the window table selects (30_encoding R78) and what one decoder operation can do (41 R110): the
inversion lemma of `runDecoder`, which later proofs cite instead of unfolding it.
-/

namespace Sys2Proof.Machine

open Sys2Proof

theorem inwin_iff (c : Config) (t : Nat) (w : WindowName) :
    inwin c t w = true ↔ (window c w).min ≤ t ∧ t ≤ (window c w).max := by
  simp [inwin]

/-- The states a decoder operation leaves: each with the decoder state, the direction and the window of its row. -/
inductive DecoderStep (d : Direction) (t : Nat) (s : State) : State → Prop where
  | ldrArm : s.dstate = .awaitLeaderHigh → d = .falling → DecoderStep d t s { s with armed := .rising }
  | ldrMark : s.dstate = .awaitLeaderHigh → d = .rising → inwin s.cfg t .lh →
      DecoderStep d t s { s with dstate := .awaitLeaderLow, armed := .falling }
  | ldrSpace : s.dstate = .awaitLeaderLow → d = .falling → inwin s.cfg t .ll →
      DecoderStep d t s { s with dstate := .receivingData, armed := .rising, bitIndex := 0 }
  | rptSpace : s.dstate = .awaitLeaderLow → d = .falling → inwin s.cfg t .rp → DecoderStep d t s s
  | bitMark : s.dstate = .receivingData → d = .rising → inwin s.cfg t .mk →
      DecoderStep d t s { s with armed := .falling }
  | bit (b : Bool) : s.dstate = .receivingData → d = .falling → inwin s.cfg t (if b then .s1 else .s0) →
      DecoderStep d t s (shiftIn b s)
  | published : s.dstate = .awaitStop → d = .rising → inwin s.cfg t .mk →
      checksumValid s.fAddr s.fAddrN s.fCmd s.fCmdN → DecoderStep d t s (decoderReset { s with ready := true })
  | dropped : s.dstate = .awaitStop → d = .rising → inwin s.cfg t .mk →
      ¬ checksumValid s.fAddr s.fAddrN s.fCmd s.fCmdN → DecoderStep d t s (decoderReset s)
  | mismatch : selectDecoderOp s.cfg s.dstate d t = .mismatch → DecoderStep d t s (decoderReset s)

/-- A decoder operation always completes, in one of the states of `DecoderStep`. -/
theorem runDecoder_cases (d : Direction) (t : Nat) (s : State) :
    ∃ u, runDecoder d t s = .next u ∧ DecoderStep d t s u := by
  unfold runDecoder
  cases hs : s.dstate <;> cases d <;> simp only [selectDecoderOp]
  case awaitLeaderHigh.falling => exact ⟨_, rfl, .ldrArm hs rfl⟩
  case awaitLeaderHigh.rising =>
    split_ifs with h
    · exact ⟨_, rfl, .ldrMark hs rfl h⟩
    · exact ⟨_, rfl, .mismatch (by simp [selectDecoderOp, hs, h])⟩
  case awaitLeaderLow.falling =>
    split_ifs with h h'
    · exact ⟨_, rfl, .ldrSpace hs rfl h⟩
    · exact ⟨_, rfl, .rptSpace hs rfl h'⟩
    · exact ⟨_, rfl, .mismatch (by simp [selectDecoderOp, hs, h, h'])⟩
  case awaitLeaderLow.rising => exact ⟨_, rfl, .mismatch (by simp [selectDecoderOp, hs])⟩
  case receivingData.falling =>
    split_ifs with h h'
    · exact ⟨_, rfl, .bit false hs rfl h⟩
    · exact ⟨_, rfl, .bit true hs rfl h'⟩
    · exact ⟨_, rfl, .mismatch (by simp [selectDecoderOp, hs, h, h'])⟩
  case receivingData.rising =>
    split_ifs with h
    · exact ⟨_, rfl, .bitMark hs rfl h⟩
    · exact ⟨_, rfl, .mismatch (by simp [selectDecoderOp, hs, h])⟩
  case awaitStop.falling => exact ⟨_, rfl, .mismatch (by simp [selectDecoderOp, hs])⟩
  case awaitStop.rising =>
    split_ifs with h
    · dsimp only [execStopMark]
      split_ifs with hv
      · refine ⟨_, rfl, ?_⟩
        simp only [readyAfterStop, hv, if_true]
        exact .published hs rfl h hv
      · exact ⟨_, rfl, .dropped hs rfl h hv⟩
    · exact ⟨_, rfl, .mismatch (by simp [selectDecoderOp, hs, h])⟩

/-- The inversion form: whatever `runDecoder` answers is one of the states of `DecoderStep`. -/
theorem decoderStep_of_next {d : Direction} {t : Nat} {s u : State} (h : runDecoder d t s = .next u) :
    DecoderStep d t s u := by
  obtain ⟨u', hu, hs⟩ := runDecoder_cases d t s
  rw [hu] at h
  injection h with h
  exact h ▸ hs

/-- The state `EDGE` hands to the decoder: counter zeroed, line level recorded, a tick inside counted for `ltimer`. -/
theorem execEdge_eq (d : Direction) (tickInside : Bool) (s : State) :
    execEdge d tickInside s =
      runDecoder s.armed s.tick
        { s with
          tick := 0
          irPrev := levelAfter d
          ltimer := if tickInside then s.ltimer - 1 else s.ltimer } := by
  simp [execEdge]

end Sys2Proof.Machine
end

