-- ==== Sys2Proof/Laws/MainLoop.lean ====
section
/-!
SUPPORT. What one main-loop step can do (30_encoding R79; 42 R131 to R138; 43 R150 to R154): the inversion lemma of
the operation a state selects, which later proofs cite instead of unfolding the eleven meanings.
-/

namespace Sys2Proof.Machine

open Sys2Proof

/-- The states a main-loop step leaves: each with the conditions of its row of 30_encoding R79. -/
inductive MainStep (s : State) : State → Prop where
  | uninitialized : s.mstate = .boot → memRead s.store 0 = Config.sentUninit → MainStep s (raiseUninitializedStore s)
  | initialized : s.mstate = .boot → memRead s.store 0 ≠ Config.sentUninit → MainStep s { s with mstate := .load }
  | loaded : s.mstate = .load →
      MainStep s { s with keyMap := readKeys s.store s.cfg.k, statusMode := .solid, mstate := .normal }
  | begun : s.mstate = .learnBegin →
      MainStep s { s with
        ch := s.ch.set s.lidx true, statusMode := .blink, blinkPhase := true, ltimer := s.cfg.blinkHalfTicks,
        mstate := .learnWait }
  | stored : s.mstate = .learnWait → s.ready = true → s.fCmd ≠ s.cfg.relearnCode → slotOf s.lidx ≤ s.cfg.k →
      MainStep s { s with
        keyMap := s.keyMap.set s.lidx s.fCmd, statusMode := .solid, ltimer := s.cfg.confirmTicks,
        mstate := .learnHold, store := memWrite s.store (slotOf s.lidx) s.fCmd }
  | blinked : s.mstate = .learnWait → s.ltimer = 0 →
      MainStep s { s with blinkPhase := !s.blinkPhase, ltimer := s.cfg.blinkHalfTicks }
  | waited : s.mstate = .learnWait → s.ltimer ≠ 0 → MainStep s s
  | held : s.mstate = .learnHold → s.ltimer ≠ 0 → MainStep s s
  | nextChannel : s.mstate = .learnHold → s.ltimer = 0 → s.lidx + 1 < s.cfg.k →
      MainStep s { s with ch := s.ch.set s.lidx false, ready := false, lidx := s.lidx + 1, mstate := .learnBegin }
  | lastChannel : s.mstate = .learnHold → s.ltimer = 0 → ¬ s.lidx + 1 < s.cfg.k →
      MainStep s { s with ch := s.ch.set s.lidx false, ready := false, lidx := 0, mstate := .commit }
  | committed : s.mstate = .commit →
      MainStep s { s with statusMode := .solid, mstate := .normal, store := memWrite s.store 0 Config.sentInit }
  | idle : s.mstate = .normal → s.ready = false → MainStep s s
  | relearn : s.mstate = .normal → s.ready = true → s.fCmd = s.cfg.relearnCode →
      MainStep s { s with ready := false, lidx := 0, mstate := .learnBegin }
  | allOff : s.mstate = .normal → s.ready = true → s.fCmd ≠ s.cfg.relearnCode → s.fCmd = Config.allOffCode →
      MainStep s { s with ch := s.ch.map fun _ => false, ready := false }
  | dispatched : s.mstate = .normal → s.ready = true → s.fCmd ≠ s.cfg.relearnCode → s.fCmd ≠ Config.allOffCode →
      MainStep s { s with
        ch := s.ch.mapIdx fun i level => if s.keyMap[i]? = some s.fCmd then !level else level
        ready := false }

/-- A main-loop step that answers a next state did one of the fifteen things of `MainStep`. -/
theorem mainStep_of_next {s t : State} (h : exec s.mainOp s = .next t) : MainStep s t := by
  unfold State.mainOp at h
  cases hm : s.mstate <;> simp only [hm, selectMainOp] at h
  case boot =>
    simp only [exec, execBootSelect, done_eq] at h
    split_ifs at h <;> cases h
    · exact .uninitialized hm ‹_›
    · exact .initialized hm ‹_›
  case load => cases h; exact .loaded hm
  case learnBegin => cases h; exact .begun hm
  case learnWait =>
    split at h
    · rename_i hc
      simp only [Bool.and_eq_true, Bool.not_eq_true', beq_eq_false_iff_ne, ne_eq] at hc
      simp only [exec, execLearnStore, writeSlot] at h
      split_ifs at h <;> cases h
      exact .stored hm hc.1 hc.2 ‹_›
    · simp only [exec, execLearnWait, done_eq] at h
      split_ifs at h <;> cases h
      · exact .blinked hm ‹_›
      · exact .waited hm ‹_›
  case learnHold =>
    split at h
    · rename_i hc
      cases h
      exact .held hm (by simpa using hc)
    · rename_i hc
      simp only [exec, execLearnNext, done_eq] at h
      have hz : s.ltimer = 0 := by simpa using hc
      split_ifs at h <;> cases h
      · exact .nextChannel hm hz ‹_›
      · exact .lastChannel hm hz ‹_›
  case commit =>
    simp only [exec, execLearnCommit, sentinelSlot, Nat.zero_le, writeSlot_of_le, ofWrite_ok] at h
    cases h
    exact .committed hm
  case normal =>
    split at h
    · rename_i hc
      cases h
      exact .idle hm (by simpa using hc)
    · rename_i hc
      have hr : s.ready = true := by simpa using hc
      split at h
      · rename_i hl
        cases h
        exact .relearn hm hr (by simpa using hl)
      · rename_i hl
        have hl' : s.fCmd ≠ s.cfg.relearnCode := by simpa using hl
        split at h
        · rename_i ha
          cases h
          exact .allOff hm hr hl' (by simpa using ha)
        · rename_i ha
          cases h
          exact .dispatched hm hr hl' (by simpa using ha)

end Sys2Proof.Machine
end

