-- ==== Sys2Proof/Laws/PerInstr.lean ====
section
/-!
SUPPORT. The family `EncodedFits`: the selector word of a well-formed operation fits its format's width (30_encoding
R91: `TICK_BITS` + 3 bits for EV, 19 with the spec's `TICK_BITS`; log 9 for the others).
-/

namespace Sys2Proof.Laws.EncodedFits

open Sys2Proof Sys2Proof.Machine

/-- One more than the largest word of a format. -/
def bound (c : Config) : Format → Nat
  | .event => 32
  | .ev => 8 * 2 ^ c.tickBits
  | .ms => 128

def Statement (i : Instr) : Prop :=
  ∀ c : Config, wellFormed c i = true → (encode c i).word < bound c (encode c i).fmt

theorem evWord_lt (c : Config) (ds : DState) (d : Direction) (t : Nat) (h : intervalFits c t = true) :
    evWord c ds d t < 8 * 2 ^ c.tickBits := by
  have ht : t < 2 ^ c.tickBits := by simpa [intervalFits] using h
  have hs : 2 * dstateCode ds + dirCode d ≤ 7 := by cases ds <;> cases d <;> decide
  have := Nat.mul_le_mul_right (2 ^ c.tickBits) hs
  unfold evWord
  omega

theorem eventWord_lt (rst tickEn trans : Bool) (d armed : Direction) : eventWord rst tickEn trans d armed < 32 := by
  cases rst <;> cases tickEn <;> cases trans <;> cases d <;> cases armed <;> decide

theorem msWord_lt (m : MState) (ready isRelearn isAllOff timing : Bool) :
    msWord m ready isRelearn isAllOff timing < 128 := by
  cases m <;> cases ready <;> cases isRelearn <;> cases isAllOff <;> cases timing <;> decide

theorem tick : Statement .tick := fun _ _ => eventWord_lt _ _ _ _ _
theorem edge (d : Direction) (tickInside : Bool) : Statement (.edge d tickInside) :=
  fun _ _ => eventWord_lt _ _ _ _ _
theorem edgeIgnored (d : Direction) : Statement (.edgeIgnored d) := fun _ _ => eventWord_lt _ _ _ _ _
theorem reset : Statement .reset := fun _ _ => eventWord_lt _ _ _ _ _
theorem ldrArm (t : Nat) : Statement (.ldrArm t) := fun c h => evWord_lt c _ _ t h
theorem ldrMark (t : Nat) : Statement (.ldrMark t) := fun c h => evWord_lt c _ _ t (Bool.and_eq_true_iff.mp h).1
theorem ldrSpace (t : Nat) : Statement (.ldrSpace t) := fun c h => evWord_lt c _ _ t (Bool.and_eq_true_iff.mp h).1
theorem rptSpace (t : Nat) : Statement (.rptSpace t) := fun c h => evWord_lt c _ _ t (Bool.and_eq_true_iff.mp h).1
theorem bitMark (t : Nat) : Statement (.bitMark t) := fun c h => evWord_lt c _ _ t (Bool.and_eq_true_iff.mp h).1
theorem bitZero (t : Nat) : Statement (.bitZero t) := fun c h => evWord_lt c _ _ t (Bool.and_eq_true_iff.mp h).1
theorem bitOne (t : Nat) : Statement (.bitOne t) := fun c h => evWord_lt c _ _ t (Bool.and_eq_true_iff.mp h).1
theorem stopMark (t : Nat) : Statement (.stopMark t) := fun c h => evWord_lt c _ _ t (Bool.and_eq_true_iff.mp h).1
theorem mismatch (ds : DState) (d : Direction) (t : Nat) : Statement (.mismatch ds d t) := fun c h =>
  evWord_lt c ds d t (Bool.and_eq_true_iff.mp h).1
theorem bootSelect : Statement .bootSelect := fun _ _ => msWord_lt _ _ _ _ _
theorem keyLoad : Statement .keyLoad := fun _ _ => msWord_lt _ _ _ _ _
theorem learnBegin : Statement .learnBegin := fun _ _ => msWord_lt _ _ _ _ _
theorem learnStore : Statement .learnStore := fun _ _ => msWord_lt _ _ _ _ _
theorem learnWait : Statement .learnWait := fun _ _ => msWord_lt _ _ _ _ _
theorem learnHold : Statement .learnHold := fun _ _ => msWord_lt _ _ _ _ _
theorem learnNext : Statement .learnNext := fun _ _ => msWord_lt _ _ _ _ _
theorem learnCommit : Statement .learnCommit := fun _ _ => msWord_lt _ _ _ _ _
theorem pollIdle : Statement .pollIdle := fun _ _ => msWord_lt _ _ _ _ _
theorem relearn : Statement .relearn := fun _ _ => msWord_lt _ _ _ _ _
theorem allOff : Statement .allOff := fun _ _ => msWord_lt _ _ _ _ _
theorem dispatch : Statement .dispatch := fun _ _ => msWord_lt _ _ _ _ _

end Sys2Proof.Laws.EncodedFits
end

