-- ==== Sys2Proof/Laws/Step.lean ====
section
/-!
SUPPORT. What one step can do, said once: the selector word a state presents always decodes, and a step that answers
a next state ran one of five kinds of operation.
-/

namespace Sys2Proof.Machine

open Sys2Proof

@[simp] theorem dirOf_dirCode (d : Direction) : dirOf (decide (dirCode d = 1)) = d := by cases d <;> rfl

theorem decodeEvent_eventWord (rst tickEn trans : Bool) (d armed : Direction) :
    decodeEvent (eventWord rst tickEn trans d armed) = selectEvent rst tickEn trans d armed := by
  cases rst <;> cases tickEn <;> cases trans <;> cases d <;> cases armed <;> rfl

theorem decodeMs_msWord (m : MState) (ready isRelearn isAllOff timing : Bool) :
    decodeMs (msWord m ready isRelearn isAllOff timing) = .ok (selectMainOp m ready isRelearn isAllOff timing) := by
  cases m <;> cases ready <;> cases isRelearn <;> cases isAllOff <;> cases timing <;> rfl

theorem decode_tick (s : State) : decode s.cfg (selectorWord s .tick) = .ok .tick := by
  simp [decode, selectorWord, decodeEvent_eventWord, selectEvent]

theorem decode_reset (s : State) : decode s.cfg (selectorWord s .reset) = .ok .reset := by
  simp [decode, selectorWord, decodeEvent_eventWord, selectEvent]

theorem decode_main (s : State) : decode s.cfg (selectorWord s .main) = .ok s.mainOp := by
  simp only [decode, selectorWord, decodeMs_msWord, State.mainOp]

theorem decode_edge_armed (s : State) (tickInside : Bool) :
    decode s.cfg (selectorWord s (.edge s.armed tickInside)) = .ok (.edge s.armed tickInside) := by
  simp [decode, selectorWord, decodeEvent_eventWord, selectEvent]

theorem decode_edge_unarmed (s : State) {d : Direction} (h : d ≠ s.armed) :
    decode s.cfg (selectorWord s (.edge d false)) = .ok (.edgeIgnored d) := by
  simp [decode, selectorWord, decodeEvent_eventWord, selectEvent, h]

/-- When an event is only a repeat. -/
theorem repeats_line {s : State} {d : Direction} :
    s.repeats (.line d) = true ↔ d = s.armed ∧ levelAfter d = s.irPrev := by
  simp [State.repeats, State.lineHeld]

/-- The next atomic step where the first event is no repeat. -/
theorem nextAtom_of_cons {s : State} {e : Event} {rest : List Event} (hp : s.pending = e :: rest)
    (he : s.repeats e = false) : nextAtom s = ((expand s e).1, (expand s e).2 ++ rest) := by
  simp [nextAtom, hp, he]

/-- The next atomic step where the first event is a repeat: that of the events after it. -/
theorem nextAtom_of_repeat {s : State} {e : Event} {rest : List Event} (hp : s.pending = e :: rest)
    (he : s.repeats e = true) : nextAtom s = nextAtom { s with pending := rest } := by
  have hr : State.repeats { s with pending := rest } = s.repeats := by funext e; cases e <;> rfl
  have hx : expand { s with pending := rest } = expand s := by funext e; cases e <;> rfl
  simp [nextAtom, hp, he, hr, hx]

/-- A tick is inside an edge step only where the edge is captured. -/
theorem armed_of_tickInside {s : State} {d : Direction} (h : (nextAtom s).1 = .edge d true) : d = s.armed := by
  revert h
  unfold nextAtom
  split
  · simp
  · rename_i e _ _
    cases e with
    | together d' o =>
      simp only [expand]
      split_ifs with hr hd
      · simp
      · cases o <;> simp
        exact fun h => h ▸ hd
      · simp
    | clock rst te ir =>
      simp only [expand]
      split_ifs <;> simp_all
    | _ => simp [expand]

/-- Every atomic step a state offers selects an operation. -/
theorem decode_nextAtom (s : State) : ∃ i, decode s.cfg (selectorWord s (nextAtom s).1) = .ok i := by
  cases ha : (nextAtom s).1 with
  | tick => exact ⟨_, decode_tick s⟩
  | reset => exact ⟨_, decode_reset s⟩
  | main => exact ⟨_, decode_main s⟩
  | edge d l =>
    by_cases h : d = s.armed
    · subst h
      exact ⟨_, decode_edge_armed s l⟩
    · cases l with
      | true => exact absurd (armed_of_tickInside ha) h
      | false => exact ⟨_, decode_edge_unarmed s h⟩

/-- What a fetch that succeeds has found. -/
theorem fetch_ok {s s' : State} {i : Instr} :
    fetch s = .ok (i, s') ↔
      s.cfg.valid ∧ decode s.cfg (selectorWord s (nextAtom s).1) = .ok i ∧
        s' = { s with pending := (nextAtom s).2 } := by
  unfold fetch fetchAtom
  by_cases hv : s.cfg.valid
  · rw [if_pos hv]
    obtain ⟨j, hj⟩ := decode_nextAtom s
    simp only [hj, Except.ok.injEq, Prod.mk.injEq]
    constructor
    · exact fun ⟨h1, h2⟩ => ⟨hv, h1, h2.symm⟩
    · exact fun ⟨_, h1, h2⟩ => ⟨h1, h2.symm⟩
  · rw [if_neg hv]
    simp [hv]

/-- A step of a valid configuration runs the operation the state selects. -/
theorem step_eq_exec {s : State} {i : Instr} (hv : s.cfg.valid)
    (hd : decode s.cfg (selectorWord s (nextAtom s).1) = .ok i) :
    step s = exec i { s with pending := (nextAtom s).2 } := by
  have : fetch s = .ok (i, { s with pending := (nextAtom s).2 }) := fetch_ok.mpr ⟨hv, hd, rfl⟩
  simp only [step, this]

/-- A repeat has no effect: the step is the one without it (10_state R33; log 6). -/
theorem step_of_repeat {s : State} {e : Event} {rest : List Event} (hp : s.pending = e :: rest)
    (he : s.repeats e = true) : step s = step { s with pending := rest } := by
  simp only [step, fetch, nextAtom_of_repeat hp he]
  rfl

/-- What a step can do from `s0`, the state with the event taken from the environment. -/
inductive StepTo (s0 : State) : State → Prop where
  | tick : StepTo s0 { s0 with tick := (s0.tick + 1) % 2 ^ s0.cfg.tickBits, ltimer := s0.ltimer - 1 }
  | reset : StepTo s0 (State.resetWith s0.cfg s0.store s0.pending)
  | ignored (d : Direction) : d ≠ s0.armed → StepTo s0 { s0 with irPrev := levelAfter d }
  | edge (tickInside : Bool) {t : State} :
      DecoderStep s0.armed s0.tick
        { s0 with
          tick := 0
          irPrev := levelAfter s0.armed
          ltimer := if tickInside then s0.ltimer - 1 else s0.ltimer } t →
      StepTo s0 t
  | main {t : State} : MainStep s0 t → StepTo s0 t

/-- The atomic step that each form of `StepTo` comes from. -/
def StepFrom (s : State) (a : Atom) (t : State) : Prop :=
  match a with
  | .tick => t = { s with tick := (s.tick + 1) % 2 ^ s.cfg.tickBits, ltimer := s.ltimer - 1 }
  | .reset => t = State.resetWith s.cfg s.store s.pending
  | .main => MainStep s t
  | .edge d tickInside =>
    if d = s.armed then
      DecoderStep s.armed s.tick
        { s with
          tick := 0
          irPrev := levelAfter s.armed
          ltimer := if tickInside then s.ltimer - 1 else s.ltimer } t
    else t = { s with irPrev := levelAfter d }

/-- Everything a step that answers a next state can have done, by the atomic step it took. -/
theorem stepFrom_of_next {s t : State} (h : step s = .next t) :
    s.cfg.valid ∧ StepFrom { s with pending := (nextAtom s).2 } (nextAtom s).1 t := by
  unfold step at h
  split at h
  case h_2 => cases h
  case h_1 i s' hf =>
    obtain ⟨hv, hd, rfl⟩ := fetch_ok.mp hf
    refine ⟨hv, ?_⟩
    cases ha : (nextAtom s).1 with
    | tick =>
      rw [ha, decode_tick] at hd
      cases hd
      simp only [exec, execTick, done_eq, countDown_eq] at h
      cases h
      rfl
    | reset =>
      rw [ha, decode_reset] at hd
      cases hd
      cases h
      rfl
    | main =>
      rw [ha, decode_main] at hd
      cases hd
      exact mainStep_of_next h
    | edge d l =>
      by_cases hda : d = s.armed
      · subst hda
        rw [ha, decode_edge_armed] at hd
        cases hd
        simp only [exec, execEdge_eq] at h
        simp only [StepFrom, if_true]
        exact decoderStep_of_next h
      · cases l with
        | true => exact absurd (armed_of_tickInside ha) hda
        | false =>
          rw [ha, decode_edge_unarmed s hda] at hd
          cases hd
          simp only [exec, execEdgeIgnored, done_eq] at h
          cases h
          simp only [StepFrom, if_neg hda]

/-- A step that answers a next state ran in a valid configuration and did one of five things. -/
theorem stepTo_of_next {s t : State} (h : step s = .next t) :
    s.cfg.valid ∧ StepTo { s with pending := (nextAtom s).2 } t := by
  obtain ⟨hv, hs⟩ := stepFrom_of_next h
  refine ⟨hv, ?_⟩
  cases ha : (nextAtom s).1 with
  | tick =>
    rw [ha] at hs
    rw [show t = _ from hs]
    exact .tick
  | reset =>
    rw [ha] at hs
    rw [show t = _ from hs]
    exact .reset
  | main =>
    rw [ha] at hs
    exact .main hs
  | edge d l =>
    rw [ha] at hs
    simp only [StepFrom] at hs
    split at hs
    · exact .edge l hs
    · rename_i hd
      subst hs
      exact .ignored d hd

end Sys2Proof.Machine
end

