-- ==== Sys2Proof/Laws/Run.lean ====
section
/-!
SUPPORT. Runs of several steps: the first step and the rest, and two runs one after the other.
-/

namespace Sys2Proof.Machine

open Sys2Proof

@[simp] theorem runSteps_zero (s : State) : runSteps 0 s = .next s := rfl

/-- A run begins with its first step. -/
theorem runSteps_succ (n : Nat) (s : State) : runSteps (n + 1) s = andThen (step s) (runSteps n) := by
  have h : ∀ r : Result, Sys2Proof.core.step s = r → runSteps (n + 1) s = andThen r (runSteps n) := by
    intro r hr
    simp only [runSteps, Host.Core.run, hr]
    cases r <;> rfl
  exact h _ rfl

theorem runSteps_succ_of_next {s t : State} (n : Nat) (h : step s = .next t) :
    runSteps (n + 1) s = runSteps n t := by
  rw [runSteps_succ, h]
  rfl

theorem runSteps_one (s : State) : runSteps 1 s = step s := by
  rw [runSteps_succ]
  cases step s <;> rfl

/-- A run of `m + n` steps is a run of `m` and then one of `n`. -/
theorem runSteps_add (m n : Nat) (s : State) : runSteps (m + n) s = andThen (runSteps m s) (runSteps n) := by
  induction m generalizing s with
  | zero => rw [Nat.zero_add]; rfl
  | succ m ih =>
    rw [Nat.succ_add, runSteps_succ, runSteps_succ]
    cases step s with
    | next t => exact ih t
    | fault e => rfl
    | refused e => rfl

theorem runSteps_add_of_next {s t : State} {m : Nat} (n : Nat) (h : runSteps m s = .next t) :
    runSteps (m + n) s = runSteps n t := by
  rw [runSteps_add, h]
  rfl

end Sys2Proof.Machine
end

