-- ==== Sys2Proof/Tests/Slice0.lean ====
section
/-!
SUPPORT. Tests: ill-formed terms that the checks refuse, words written out from the spec's encoding that decode to
their operations, one or two steps for each operation with the results the spec's own examples give, and for each
statement a state that meets its hypotheses.
-/

namespace Sys2Proof.Tests

open Sys2Proof Sys2Proof.Machine

/-- Does the outcome answer a next state with this property? -/
def nextIs (r : Result) (p : State → Bool) : Bool :=
  match r with
  | .next t => p t
  | .fault _ => false
  | .refused _ => false

/-- The configuration of 95_test_vectors. -/
def cfg : Config := Config.illustrative

/-- The state after reset with that configuration, a given store and given events. -/
def start (m : Memory) (p : List Event) : State := State.resetWith cfg m p

/-- A state after reset with nothing placed. -/
def idle : State := start [] []

/-! ### WellFormed: each check refuses an ill-formed term -/

theorem test_wf_illustrative_accepted : cfg.valid := by decide
theorem test_wf_no_channel : ¬ Config.valid { cfg with k := 0 } := by decide
theorem test_wf_too_many_channels : ¬ Config.valid { cfg with k := 256 } := by decide
theorem test_wf_tick_zero : ¬ Config.valid { cfg with tickUs := 0 } := by decide
theorem test_wf_tick_too_coarse : ¬ Config.valid { cfg with tickUs := 201 } := by decide
theorem test_wf_lh_empty : ¬ Config.valid { cfg with lhUs := ⟨11000, 8000⟩ } := by decide
theorem test_wf_ll_empty : ¬ Config.valid { cfg with llUs := ⟨6000, 3000⟩ } := by decide
theorem test_wf_rp_empty : ¬ Config.valid { cfg with rpUs := ⟨2500, 2000⟩ } := by decide
theorem test_wf_mk_empty : ¬ Config.valid { cfg with mkUs := ⟨800, 200⟩ } := by decide
theorem test_wf_s0_empty : ¬ Config.valid { cfg with s0Us := ⟨800, 200⟩ } := by decide
theorem test_wf_s1_empty : ¬ Config.valid { cfg with s1Us := ⟨2300, 1200⟩ } := by decide
theorem test_wf_repeat_meets_leader : ¬ Config.valid { cfg with rpUs := ⟨2000, 3000⟩ } := by decide
theorem test_wf_zero_meets_one : ¬ Config.valid { cfg with s0Us := ⟨200, 1200⟩ } := by decide
theorem test_wf_counter_too_narrow : ¬ Config.valid { cfg with tickBits := 10 } := by decide
theorem test_wf_equal_sentinels : ¬ Config.valid { cfg with relearnCode := 0x02 } := by decide
theorem test_wf_no_blink : ¬ Config.valid { cfg with blinkHalfTicks := 0 } := by decide
theorem test_wf_no_confirm : ¬ Config.valid { cfg with confirmTicks := 0 } := by decide
theorem test_wf_blink_too_wide : ¬ Config.valid { cfg with ltBits := 15, confirmTicks := 1, blinkHalfTicks := 32768 } := by
  decide
theorem test_wf_confirm_too_wide : ¬ Config.valid { cfg with ltBits := 15, blinkHalfTicks := 1, confirmTicks := 32768 } := by
  decide

theorem test_wf_ldrArm_interval : wellFormed cfg (.ldrArm 65536) = false := by decide
theorem test_wf_ldrMark_interval : wellFormed { cfg with tickBits := 9 } (.ldrMark 900) = false := by decide
theorem test_wf_ldrMark_window : wellFormed cfg (.ldrMark 799) = false := by decide
theorem test_wf_ldrSpace_interval : wellFormed { cfg with tickBits := 8 } (.ldrSpace 450) = false := by decide
theorem test_wf_ldrSpace_window : wellFormed cfg (.ldrSpace 601) = false := by decide
theorem test_wf_rptSpace_interval : wellFormed { cfg with tickBits := 7 } (.rptSpace 225) = false := by decide
theorem test_wf_rptSpace_window : wellFormed cfg (.rptSpace 251) = false := by decide
theorem test_wf_bitMark_interval : wellFormed { cfg with tickBits := 5 } (.bitMark 56) = false := by decide
theorem test_wf_bitMark_window : wellFormed cfg (.bitMark 81) = false := by decide
theorem test_wf_bitZero_interval : wellFormed { cfg with tickBits := 5 } (.bitZero 56) = false := by decide
theorem test_wf_bitZero_window : wellFormed cfg (.bitZero 19) = false := by decide
theorem test_wf_bitOne_interval : wellFormed { cfg with tickBits := 7 } (.bitOne 169) = false := by decide
theorem test_wf_bitOne_window : wellFormed cfg (.bitOne 119) = false := by decide
theorem test_wf_stopMark_interval : wellFormed { cfg with tickBits := 5 } (.stopMark 56) = false := by decide
theorem test_wf_stopMark_window : wellFormed cfg (.stopMark 81) = false := by decide
theorem test_wf_mismatch_interval : wellFormed cfg (.mismatch .receivingData .falling 65536) = false := by decide
theorem test_wf_mismatch_row : wellFormed cfg (.mismatch .receivingData .falling 56) = false := by decide

/-! ### Decoding: words written out from 30_encoding R71, R78, R79, R80, R91

An EV word is `dstate` (18:17), `direction` (16), interval (15:0); an MS word has the `mstate` code in 2:0 and the
model's condition bits above (log 9); an event word is the model's (log 9). -/

/-- AwaitLeaderHigh 00, Falling 0, 57920 = 0xE240 (the example of R111). -/
theorem test_decode_ldrArm : decodeTableWord 24 0x0E240 = some (.ldrArm 57920) := by decide
/-- AwaitLeaderHigh 00, Rising 1, 900 = 0x0384 (R112). -/
theorem test_decode_ldrMark : decodeTableWord 24 0x10384 = some (.ldrMark 900) := by decide
/-- AwaitLeaderLow 01, Falling 0, 450 = 0x01C2 (R113). -/
theorem test_decode_ldrSpace : decodeTableWord 24 0x201C2 = some (.ldrSpace 450) := by decide
/-- AwaitLeaderLow 01, Falling 0, 225 = 0x00E1 (R114). -/
theorem test_decode_rptSpace : decodeTableWord 24 0x200E1 = some (.rptSpace 225) := by decide
/-- ReceivingData 10, Rising 1, 56 = 0x0038 (R115). -/
theorem test_decode_bitMark : decodeTableWord 24 0x50038 = some (.bitMark 56) := by decide
/-- ReceivingData 10, Falling 0, 56 = 0x0038 (R116). -/
theorem test_decode_bitZero : decodeTableWord 24 0x40038 = some (.bitZero 56) := by decide
/-- ReceivingData 10, Falling 0, 169 = 0x00A9 (R117). -/
theorem test_decode_bitOne : decodeTableWord 24 0x400A9 = some (.bitOne 169) := by decide
/-- AwaitStop 11, Rising 1, 56 = 0x0038 (R119). -/
theorem test_decode_stopMark : decodeTableWord 24 0x70038 = some (.stopMark 56) := by decide
/-- ReceivingData 10, Falling 0, 100 = 0x0064, between the two windows (R120). -/
theorem test_decode_mismatch : decodeTableWord 24 0x40064 = some (.mismatch .receivingData .falling 100) := by decide
theorem test_decode_bootSelect : decodeTableWord 8 0b000 = some .bootSelect := by decide
theorem test_decode_keyLoad : decodeTableWord 8 0b001 = some .keyLoad := by decide
theorem test_decode_learnBegin : decodeTableWord 8 0b010 = some .learnBegin := by decide
theorem test_decode_learnStore : decodeTableWord 8 0b0001011 = some .learnStore := by decide
theorem test_decode_learnWait : decodeTableWord 8 0b0000011 = some .learnWait := by decide
theorem test_decode_learnWait_relearn : decodeTableWord 8 0b0011011 = some .learnWait := by decide
theorem test_decode_learnHold : decodeTableWord 8 0b1000100 = some .learnHold := by decide
theorem test_decode_learnNext : decodeTableWord 8 0b0000100 = some .learnNext := by decide
theorem test_decode_learnCommit : decodeTableWord 8 0b101 = some .learnCommit := by decide
theorem test_decode_pollIdle : decodeTableWord 8 0b0000110 = some .pollIdle := by decide
theorem test_decode_relearn : decodeTableWord 8 0b0011110 = some .relearn := by decide
theorem test_decode_allOff : decodeTableWord 8 0b0101110 = some .allOff := by decide
theorem test_decode_dispatch : decodeTableWord 8 0b0001110 = some .dispatch := by decide
theorem test_decode_tick : decodeTableWord 0 0b00001 = some .tick := by decide
theorem test_decode_edge_falling : decodeTableWord 0 0b00010 = some (.edge .falling false) := by decide
theorem test_decode_edge_rising_tick : decodeTableWord 0 0b01111 = some (.edge .rising true) := by decide
theorem test_decode_edgeIgnored_falling : decodeTableWord 0 0b01010 = some (.edgeIgnored .falling) := by decide
theorem test_decode_edgeIgnored_rising : decodeTableWord 0 0b00110 = some (.edgeIgnored .rising) := by decide
theorem test_decode_reset : decodeTableWord 0 0b11111 = some .reset := by decide
theorem test_decode_rejects_no_event : decodeTableWord 0 0 = none := by decide
theorem test_decode_rejects_two_operations : decodeTableWord 0 0b01011 = none := by decide
theorem test_decode_rejects_event_bits : decodeTableWord 0 32 = none := by decide
theorem test_decode_rejects_unused_mstate : decodeTableWord 8 0b111 = none := by decide
theorem test_decode_rejects_ms_bits : decodeTableWord 8 0x80 = none := by decide
theorem test_decode_rejects_ev_bits : decodeTableWord 24 0x80000 = none := by decide

/-! ### One step of each operation, with the results of the spec's examples -/

/-- R100: from `tick` = 0x0383, `ltimer` = 2. -/
theorem test_tick : nextIs (exec .tick { idle with tick := 0x383, ltimer := 2 })
    (fun t => t.tick == 0x384 && t.ltimer == 1) = true := by decide
/-- R100, corner cases: the wrap, and `ltimer` = 0 stays 0. -/
theorem test_tick_wraps : nextIs (exec .tick { idle with tick := 0xFFFF })
    (fun t => t.tick == 0 && t.ltimer == 0) = true := by decide
/-- R101: `tick` = 900, Rising armed, AwaitLeaderHigh, step `RISE`. -/
theorem test_edge : nextIs (step { start [] [.line .rising] with tick := 900, armed := .rising, irPrev := false })
    (fun t => t.tick == 0 && t.dstate == .awaitLeaderLow && t.armed == .falling && t.irPrev) = true := by decide
/-- R101, corner case (a): an interval of 0 mismatches. -/
theorem test_edge_zero : nextIs (exec (.edge .rising true) { idle with armed := .rising, ltimer := 5, bitIndex := 3 })
    (fun t => t.tick == 0 && t.armed == .falling && t.bitIndex == 0 && t.ltimer == 4) = true := by decide
/-- R102: Falling armed, `tick` = 123, step `RISE`. -/
theorem test_edgeIgnored : nextIs (step { start [] [.line .rising] with tick := 123, irPrev := false })
    (fun t => t.tick == 123 && t.irPrev && t.dstate == .awaitLeaderHigh) = true := by decide
/-- R102, corner case: in the reset state a `RISE` is ignored. -/
theorem test_edgeIgnored_reset : nextIs (step (start [] [.line .rising])) (fun t => t == idle) = true := by decide
/-- 10_state R33: a second `FALL` on a line at the mark level is no transition, and the tick after it is next. -/
theorem test_edge_repeated : nextIs (step { start [] [.line .falling, .tick] with irPrev := false })
    (fun t => t == { idle with irPrev := false, tick := 1 }) = true := by decide
/-- R190: the values of 10_state R40, the store kept. -/
theorem test_reset :
    nextIs (exec .reset { start [(0, 0x00)] [] with tick := 7, ready := true, irPrev := false, mstate := .normal })
    (fun t => t == start [(0, 0x00)] []) = true := by decide
/-- R111. -/
theorem test_ldrArm : nextIs (exec (.ldrArm 57920) idle)
    (fun t => t.dstate == .awaitLeaderHigh && t.armed == .rising) = true := by decide
/-- R112. -/
theorem test_ldrMark : nextIs (exec (.ldrMark 900) { idle with armed := .rising })
    (fun t => t.dstate == .awaitLeaderLow && t.armed == .falling) = true := by decide
/-- R113. -/
theorem test_ldrSpace : nextIs (exec (.ldrSpace 450) { idle with dstate := .awaitLeaderLow, bitIndex := 9 })
    (fun t => t.dstate == .receivingData && t.armed == .rising && t.bitIndex == 0) = true := by decide
/-- R114: every register unchanged. -/
theorem test_rptSpace : nextIs (exec (.rptSpace 225) { idle with dstate := .awaitLeaderLow })
    (fun t => t == { idle with dstate := .awaitLeaderLow }) = true := by decide
/-- R115. -/
theorem test_bitMark : nextIs (exec (.bitMark 56) { idle with dstate := .receivingData, armed := .rising })
    (fun t => t.dstate == .receivingData && t.armed == .falling) = true := by decide
/-- R116: `bitIndex` = 0, a stale frame of ones. -/
theorem test_bitZero : nextIs (exec (.bitZero 56) { idle with dstate := .receivingData, frame := 0xFFFFFFFF })
    (fun t => t.frame == 0xFFFFFFFE && t.bitIndex == 1 && t.armed == .rising) = true := by decide
/-- R117: `bitIndex` = 9. -/
theorem test_bitOne :
    nextIs (exec (.bitOne 169) { idle with dstate := .receivingData, frame := 0x100, bitIndex := 9 })
    (fun t => t.frame == 0x300 && t.bitIndex == 10 && t.armed == .rising && t.fAddrN == 0) = true := by decide
/-- R118: `bitIndex` = 31, `frame` = 0x7D02FF00, b = 1. -/
theorem test_bitOne_last :
    nextIs (exec (.bitOne 169) { idle with dstate := .receivingData, frame := 0x7D02FF00, bitIndex := 31 })
    (fun t => t.frame == 0xFD02FF00 && t.fCmdN == 0xFD && t.dstate == .awaitStop && t.bitIndex == 0 &&
      t.armed == .rising) = true := by decide
/-- R118, R72: bit 23 finishes the command byte. -/
theorem test_bitZero_command :
    nextIs (exec (.bitZero 56) { idle with dstate := .receivingData, frame := 0x0002FF00, bitIndex := 23 })
    (fun t => t.fCmd == 0x02 && t.bitIndex == 24 && t.dstate == .receivingData) = true := by decide
/-- R119: bytes 00, FF, 02, FD. -/
theorem test_stopMark_valid :
    nextIs (exec (.stopMark 56)
      { idle with dstate := .awaitStop, armed := .rising, fAddr := 0, fAddrN := 0xFF, fCmd := 0x02, fCmdN := 0xFD })
    (fun t => t.ready && t.dstate == .awaitLeaderHigh && t.armed == .falling) = true := by decide
/-- R119: the last byte FC instead, `ready` unchanged. -/
theorem test_stopMark_invalid :
    nextIs (exec (.stopMark 56)
      { idle with dstate := .awaitStop, armed := .rising, fAddr := 0, fAddrN := 0xFF, fCmd := 0x02, fCmdN := 0xFC })
    (fun t => !t.ready && t.dstate == .awaitLeaderHigh && t.armed == .falling) = true := by decide
/-- R120: ReceivingData, `bitIndex` = 13, interval 100. -/
theorem test_mismatch :
    nextIs (exec (.mismatch .receivingData .falling 100) { idle with dstate := .receivingData, bitIndex := 13 })
    (fun t => t == idle) = true := by decide
/-- R131: slot 0 = 0xFF. -/
theorem test_bootSelect_learn : nextIs (exec .bootSelect { idle with lidx := 3 })
    (fun t => t.mstate == .learnBegin && t.lidx == 0) = true := by decide
/-- R131: slot 0 = 0x00. -/
theorem test_bootSelect_load : nextIs (exec .bootSelect (start [(0, 0x00)] []))
    (fun t => t.mstate == .load) = true := by decide
/-- R132: store 00, 10, 11, 12, 13. -/
theorem test_keyLoad :
    nextIs (exec .keyLoad { start [(0, 0x00), (1, 0x10), (2, 0x11), (3, 0x12), (4, 0x13)] [] with mstate := .load })
    (fun t => t.keyMap == [0x10, 0x11, 0x12, 0x13] && t.statusMode == .solid && t.mstate == .normal) = true := by
  decide
/-- R133: `lidx` = 2. -/
theorem test_learnBegin : nextIs (exec .learnBegin { idle with mstate := .learnBegin, lidx := 2 })
    (fun t => t.ch == [false, false, true, false] && t.statusMode == .blink && t.blinkPhase &&
      t.ltimer == 25000 && t.mstate == .learnWait) = true := by decide
/-- R134: `lidx` = 1, `f_cmd` = 0x18. -/
theorem test_learnStore :
    nextIs (exec .learnStore { idle with mstate := .learnWait, lidx := 1, ready := true, fCmd := 0x18 })
    (fun t => t.keyMap == [0, 0x18, 0, 0] && t.store == [(2, 0x18)] && t.ltimer == 50000 && t.ready &&
      t.mstate == .learnHold) = true := by decide
/-- R134: the command is stored unchecked, 0xFF too (log 23). -/
theorem test_learnStore_ff :
    nextIs (exec .learnStore { start [(2, 0x18)] [] with mstate := .learnWait, lidx := 1, ready := true, fCmd := 0xFF })
    (fun t => t.keyMap == [0, 0xFF, 0, 0] && memRead t.store 2 == 0xFF) = true := by decide
/-- R135: `ltimer` = 0, `blink_phase` = 1. -/
theorem test_learnWait : nextIs (exec .learnWait { idle with mstate := .learnWait, blinkPhase := true })
    (fun t => !t.blinkPhase && t.ltimer == 25000 && t.mstate == .learnWait) = true := by decide
/-- R136: `ltimer` = 17, unchanged state. -/
theorem test_learnHold : nextIs (exec .learnHold { idle with mstate := .learnHold, ltimer := 17 })
    (fun t => t == { idle with mstate := .learnHold, ltimer := 17 }) = true := by decide
/-- R137: K = 4, `lidx` = 3. -/
theorem test_learnNext :
    nextIs (exec .learnNext { idle with mstate := .learnHold, lidx := 3, ch := [false, false, false, true], ready := true })
    (fun t => t.ch == [false, false, false, false] && !t.ready && t.lidx == 0 && t.mstate == .commit) = true := by
  decide
/-- R138: store FF, 10, 11, 12, 13. -/
theorem test_learnCommit :
    nextIs (exec .learnCommit { start [(1, 0x10), (2, 0x11), (3, 0x12), (4, 0x13)] [] with mstate := .commit })
    (fun t => t.store == [(0, 0x00), (1, 0x10), (2, 0x11), (3, 0x12), (4, 0x13)] && t.mstate == .normal &&
      t.ports.status) = true := by decide
/-- R154: nothing changes although `KeyMap[0]` = `f_cmd`. -/
theorem test_pollIdle :
    nextIs (step { idle with mstate := .normal, fCmd := 0x10, keyMap := [0x10, 0, 0, 0], ch := [true, false, false, false] })
    (fun t => t.ch == [true, false, false, false] && t.mstate == .normal) = true := by decide
/-- R151: the illustrative code 0x0D. -/
theorem test_relearn :
    nextIs (step { idle with mstate := .normal, ready := true, fCmd := 0x0D, lidx := 2, ch := [true, false, true, true] })
    (fun t => !t.ready && t.lidx == 0 && t.mstate == .learnBegin && t.ch == [true, false, true, true]) = true := by
  decide
/-- R152: the source's scenario. -/
theorem test_allOff :
    nextIs (step { idle with mstate := .normal, ready := true, fCmd := 0x02, ch := [true, false, true, true] })
    (fun t => t.ch == [false, false, false, false] && !t.ready && t.mstate == .normal) = true := by decide
/-- R153: duplicates toggle together. -/
theorem test_dispatch :
    nextIs (step { idle with
      mstate := .normal, ready := true, fCmd := 0x10, keyMap := [0x10, 0x11, 0x10, 0x13], ch := [false, false, true, false] })
    (fun t => t.ch == [true, false, false, false] && !t.ready) = true := by decide

/-! ### Witnesses: for each statement with hypotheses, states and operands that meet them, each clause at a boundary -/

/-- A channel learned and a frame published: Normal mode, KeyMap and store in agreement. -/
def normal : State :=
  { start [(0, 0x00), (1, 0x10), (2, 0x11), (3, 0x12), (4, 0x13)] [] with
    keyMap := [0x10, 0x11, 0x12, 0x13], mstate := .normal, statusMode := .solid, ready := true, fCmd := 0x10 }

/-- The stop mark of a valid frame about to end, 56 ticks long. -/
def stopping (p : List Event) : State :=
  { start [] p with
    dstate := .awaitStop, armed := .rising, irPrev := false, tick := 56, frame := 0xFD02FF00
    fAddr := 0x00, fAddrN := 0xFF, fCmd := 0x02, fCmdN := 0xFD }

theorem witness_DecodeEncodeRoundTrip : cfg.valid ∧ wellFormed cfg (.bitOne 230) = true ∧
    wellFormed cfg (.edge .rising true) = true ∧ wellFormed cfg (.ldrArm 65535) = true ∧
    wellFormed cfg (.mismatch .awaitStop .falling 0) = true := by decide
theorem witness_DecodedOperationsAreWellFormed : decode cfg ⟨.ev, 0x400A9⟩ = .ok (.bitOne 169) := by rfl
theorem witness_EvWordsHaveOneMeaning : decode cfg ⟨.ev, 0x7FFFF⟩ = .ok (.mismatch .awaitStop .rising 65535) := by rfl
theorem witness_WindowTableSelectsRows : cfg.valid ∧ DecoderOp.rptSpace ≠ .mismatch ∧
    selectDecoderOp cfg .awaitLeaderLow .falling 250 = .rptSpace ∧
    selectDecoderOp cfg .awaitLeaderLow .falling 251 = .mismatch := by decide
theorem witness_StepRunsDecodedOperation : (start [] [.line .falling]).cfg.valid ∧
    decode (start [] [.line .falling]).cfg
      (selectorWord (start [] [.line .falling]) (nextAtom (start [] [.line .falling])).1) = .ok (.edge .falling false) :=
  ⟨by decide, rfl⟩
theorem witness_PlacedWordRunsNext_event : idle.cfg.valid ∧ decode idle.cfg ⟨formatOf 0, 0b00001⟩ = .ok .tick ∧ 0 ≤ 8 :=
  ⟨by decide, rfl, by decide⟩
theorem witness_PlacedWordRunsNext_ms : idle.cfg.valid ∧ decode idle.cfg ⟨formatOf 8, 0b0101110⟩ = .ok .allOff ∧ 8 ≤ 8 :=
  ⟨by decide, rfl, by decide⟩
theorem witness_PlacedWordRunsNext_ev : idle.cfg.valid ∧ decode idle.cfg ⟨formatOf 9, 0x70050⟩ = .ok (.stopMark 80) ∧ 8 < 9 :=
  ⟨by decide, rfl, by decide⟩
theorem witness_EventRowsSelectTheirOperation :
    (start [] [.tick]).cfg.valid ∧ (nextAtom (start [] [.tick])).1 = .tick ∧
    (nextAtom (start [] [.reset])).1 = .reset ∧
    (nextAtom (start [] [.line .falling])).1 = .edge idle.armed false ∧
    (nextAtom (start [] [.line .rising])).1 = .edge .rising false ∧ idle.armed ≠ Direction.rising := by decide
theorem witness_MainStepRunsTableRow : idle.cfg.valid ∧ (nextAtom idle).1 = .main ∧ normal.cfg.valid ∧
    (nextAtom normal).1 = .main ∧ normal.mstate = .normal ∧ normal.ready = true := by decide
theorem witness_WellFormedStepsComplete : normal.WellFormed ∧ State.WellFormed (start [] [.line .falling]) ∧
    State.WellFormed (start [] [.line .rising]) := ⟨by decide, by decide, by decide⟩
theorem witness_RefusedStepsAreNamed : ¬ (State.cfg { idle with cfg := { cfg with k := 0 } }).valid ∧ cfg.valid := by
  decide
theorem witness_RefusedStepsAreNamed_refusal :
    step { idle with cfg := { cfg with k := 0 } } = .refused .badConfig := by rfl
theorem witness_PulseTrainCountsTicks : cfg.valid ∧ State.tick { idle with tick := 0xFFFF } < 2 ^ cfg.tickBits ∧
    (start [] [.tick, .tick, .main]).pending = List.replicate 2 .tick ++ [.main] := by decide
theorem witness_CoincidenceHasThreeOutcomes : cfg.valid ∧ levelAfter idle.armed ≠ idle.irPrev ∧
    (start [] [.together .falling .tickFirst]).pending = .together idle.armed .tickFirst :: [] ∧
    (start [] [.together .falling .edgeFirst]).pending = .together idle.armed .edgeFirst :: [] ∧
    (start [] [.together .falling .tickLost]).pending = .together idle.armed .tickLost :: [] := by decide
/-- The five clauses without reset: the line falls (captured), rises (ignored) with and without a tick, or stays. -/
theorem witness_ClockComposesAtomicSteps : cfg.valid ∧
    (start [] [.clock true true false]).pending = .clock true true false :: [] ∧
    (false ≠ idle.irPrev ∧ Direction.falling = idle.armed) ∧
    (true ≠ State.irPrev { idle with irPrev := false } ∧ Direction.rising ≠ State.armed { idle with irPrev := false }) ∧
    true = idle.irPrev := by decide
theorem witness_StepKeepsWellFormed : normal.WellFormed ∧ ∃ t, step normal = .next t := ⟨by decide, _, rfl⟩
theorem witness_StepKeepsDecoderPhase : (stopping [.line .rising]).DecoderPhase ∧
    ∃ t, step (stopping [.line .rising]) = .next t := ⟨by decide, _, rfl⟩
theorem witness_StepKeepsFrameBytes : (stopping [.line .rising]).FrameBytes ∧
    ∃ t, step (stopping [.line .rising]) = .next t := ⟨by decide, _, rfl⟩
/-- 32 bits but one decided, the last about to be: the bytes finished so far agree with the frame. -/
theorem witness_StepKeepsFrameBytes_data :
    State.FrameBytes { stopping [.line .falling] with dstate := .receivingData, bitIndex := 31, armed := .falling } ∧
    nextIs (step { stopping [.line .falling] with
      dstate := .receivingData, bitIndex := 31, armed := .falling, irPrev := true, frame := 0x7D02FF00, tick := 169 })
      (fun t => t.dstate == .awaitStop && t.fCmdN == 0xFD) = true := by decide
theorem witness_StepKeepsStatusShown : normal.StatusShown ∧ ∃ t, step normal = .next t :=
  ⟨(rfl : normal.statusMode = .solid), _, rfl⟩
theorem witness_StepKeepsLearnedSoFar : normal.WellFormed ∧ normal.LearnedSoFar ∧ ∃ t, step normal = .next t :=
  ⟨by decide, (by decide : normal.Stored 4), _, rfl⟩
theorem witness_ResetMeetsInvariants : cfg.valid ∧ Memory.wf [(0, 0x00), (255, 0x10)] := by decide
theorem witness_OperationsWriteOnlyTheirRegisters : ∃ t, exec .learnStore normal = .next t := ⟨_, rfl⟩
theorem witness_ReadySetOnlyByValidStopMark : ∃ t, step (stopping [.line .rising]) = .next t ∧
    (stopping [.line .rising]).ready = false ∧ t.ready = true := ⟨_, rfl, rfl, rfl⟩
theorem witness_ReadyClearedOnlyByConsumers : ∃ t, step normal = .next t ∧ normal.ready = true ∧ t.ready = false :=
  ⟨_, rfl, rfl, rfl⟩
theorem witness_SentinelWrittenOnlyByCommit : ∃ t, Memory.wf (State.store { idle with mstate := .commit }) ∧
    step { idle with mstate := .commit } = .next t ∧
    memRead t.store 0 ≠ memRead (State.store { idle with mstate := .commit }) 0 :=
  ⟨_, by decide, rfl, by decide⟩
theorem witness_ModeChangesOnlyAsListed : ∃ t, step idle = .next t ∧ modeOf t.mstate ≠ modeOf idle.mstate :=
  ⟨_, rfl, by decide⟩
theorem witness_StorePortExplainsStore : ∃ t, exec .learnCommit normal = .next t := ⟨_, rfl⟩
theorem witness_ConditionsAreLocalAndSilent :
    raised idle .bootSelect = some .uninitializedStore ∧
    raised idle (.mismatch .awaitStop .falling 0) = some .timingMismatch ∧
    raised { stopping [] with fCmdN := 0xFC } (.edge .rising false) = some .checksumFailure ∧
    raised { stopping [] with tick := 81 } (.edge .rising false) = some .timingMismatch := by decide
theorem witness_DecoderReadsOnlyItsRegisters :
    SameDecoder (stopping []) { stopping [] with mstate := .normal, keyMap := [1, 2, 3, 4], irPrev := true } ∧
    State.tick { stopping [] with mstate := .normal, keyMap := [1, 2, 3, 4], irPrev := true } = (stopping []).tick := by
  decide
theorem witness_MainLoopReadsOnlyItsRegisters :
    SameMainLoop normal { normal with tick := 9, fAddr := 1, dstate := .awaitStop } ∧
    (∃ t, exec normal.mainOp normal = .next t) := ⟨by decide, _, rfl⟩
theorem witness_TickAdvancesCounters : (start [] [.tick]).cfg.valid ∧ (nextAtom (start [] [.tick])).1 = .tick := by decide
theorem witness_IgnoredEdgeOnlyRecordsLevel : cfg.valid ∧ Direction.rising ≠ idle.armed ∧
    (nextAtom (start [] [.line .rising])).1 = .edge .rising false := by decide
/-- Clocks with and without a change of level. -/
theorem witness_LineTransitionsAlternate_clock : State.WellFormed (start [] [.clock false true false]) ∧
    (start [] [.clock false true false]).pending = .clock false true false :: [] ∧
    State.WellFormed (start [] [.clock false false true]) ∧
    (start [] [.clock false false true]).pending = .clock false false true :: [] := by decide
/-- A `FALL` and a `RISE` that change the level, and each to the level held. -/
theorem witness_LineTransitionsAlternate_event : State.WellFormed (start [] [.line .falling]) ∧
    levelAfter .falling ≠ idle.irPrev ∧ levelAfter .rising ≠ State.irPrev { idle with irPrev := false } ∧
    (levelAfter .rising = idle.irPrev ∧ Direction.rising ≠ idle.armed) ∧
    (levelAfter .falling = State.irPrev { idle with irPrev := false } ∧ Direction.falling = idle.armed) ∧
    (start [] [.line .falling]).pending = .line .falling :: [] ∧
    (start [] [.together .falling .tickFirst]).pending = .together .falling .tickFirst :: [] := by decide
theorem witness_ResetLeavesListedValues : cfg.valid ∧
    (start [] [.clock true true false]).pending = .clock true true false :: [] := by decide
/-- Both ends of each window and their neighbours outside. -/
theorem witness_windows :
    (selectDecoderOp cfg .awaitLeaderHigh .rising 799 = .mismatch ∧ selectDecoderOp cfg .awaitLeaderHigh .rising 800 = .ldrMark ∧
      selectDecoderOp cfg .awaitLeaderHigh .rising 1100 = .ldrMark ∧
      selectDecoderOp cfg .awaitLeaderHigh .rising 1101 = .mismatch) ∧
    (selectDecoderOp cfg .awaitLeaderLow .falling 199 = .mismatch ∧ selectDecoderOp cfg .awaitLeaderLow .falling 200 = .rptSpace ∧
      selectDecoderOp cfg .awaitLeaderLow .falling 250 = .rptSpace ∧
      selectDecoderOp cfg .awaitLeaderLow .falling 299 = .mismatch ∧
      selectDecoderOp cfg .awaitLeaderLow .falling 300 = .ldrSpace ∧
      selectDecoderOp cfg .awaitLeaderLow .falling 600 = .ldrSpace ∧
      selectDecoderOp cfg .awaitLeaderLow .falling 601 = .mismatch) ∧
    (selectDecoderOp cfg .receivingData .rising 19 = .mismatch ∧ selectDecoderOp cfg .receivingData .rising 20 = .bitMark ∧
      selectDecoderOp cfg .receivingData .rising 80 = .bitMark ∧ selectDecoderOp cfg .receivingData .rising 81 = .mismatch) ∧
    (selectDecoderOp cfg .receivingData .falling 19 = .mismatch ∧
      selectDecoderOp cfg .receivingData .falling 20 = .bitZero ∧
      selectDecoderOp cfg .receivingData .falling 80 = .bitZero ∧
      selectDecoderOp cfg .receivingData .falling 119 = .mismatch ∧
      selectDecoderOp cfg .receivingData .falling 120 = .bitOne ∧
      selectDecoderOp cfg .receivingData .falling 230 = .bitOne ∧
      selectDecoderOp cfg .receivingData .falling 231 = .mismatch) ∧
    (selectDecoderOp cfg .awaitStop .rising 19 = .mismatch ∧ selectDecoderOp cfg .awaitStop .rising 20 = .stopMark ∧
      selectDecoderOp cfg .awaitStop .rising 80 = .stopMark ∧
      selectDecoderOp cfg .awaitStop .rising 81 = .mismatch) := by decide
theorem witness_MismatchResetsLocally : cfg.valid ∧
    selectDecoderOp cfg .receivingData .falling 231 = .mismatch ∧
    selectDecoderOp cfg .receivingData .falling 230 ≠ .mismatch := by decide
theorem witness_RepeatSpaceWritesNothing : cfg.valid ∧ (window cfg .rp).min ≤ 200 ∧ 200 ≤ (window cfg .rp).max ∧
    (window cfg .rp).min ≤ 250 ∧ 250 ≤ (window cfg .rp).max := by decide
/-- Finished bytes at bits 7, 15, 23 and 31, and none at bit 6. -/
theorem witness_DecidedBitsShiftIn :
    nextIs (exec (.bitOne 120) { idle with bitIndex := 7 }) (fun t => t.fAddr == 0x80) = true ∧
    nextIs (exec (.bitOne 120) { idle with bitIndex := 15 }) (fun t => t.fAddrN == 0x80) = true ∧
    nextIs (exec (.bitOne 120) { idle with bitIndex := 23 }) (fun t => t.fCmd == 0x80) = true ∧
    nextIs (exec (.bitOne 120) { idle with bitIndex := 31 }) (fun t => t.fCmdN == 0x80) = true ∧
    nextIs (exec (.bitOne 120) { idle with bitIndex := 6 }) (fun t => t.fAddr == 0 && t.frame == 0x40) = true := by
  decide
/-- The nominal spaces (30_encoding R73) of the frame of address 0x00, command 0x02 (R76). -/
def nominalSpace (i : Nat) : Nat := if (0xFD02FF00 : FrameWord).getLsbD i then 169 else 56

/-- Reset, 1 tick of silence, that frame in nominal timings, then a main-loop step. -/
def framed : State := start [] (frameEvents 1 900 450 (fun _ => 56) nominalSpace 56 ++ [.main])

theorem witness_WellFormedFrameIsDecoded :
    (framed.cfg.valid ∧ framed.tick < 2 ^ framed.cfg.tickBits ∧ framed.dstate = .awaitLeaderHigh ∧
      framed.armed = .falling ∧ framed.irPrev = true ∧ inwin framed.cfg 900 .lh = true ∧
      inwin framed.cfg 450 .ll = true ∧ (∀ i < 32, inwin framed.cfg ((fun _ => 56) i) .mk = true) ∧
      (∀ i < 32, inwin framed.cfg (nominalSpace i) (if (0xFD02FF00 : FrameWord).getLsbD i then .s1 else .s0) = true) ∧
      inwin framed.cfg 56 .mk = true ∧ 450 < 2 ^ framed.cfg.tickBits ∧
      (∀ i < 32, (fun _ => 56) i < 2 ^ framed.cfg.tickBits ∧ nominalSpace i < 2 ^ framed.cfg.tickBits) ∧
      56 < 2 ^ framed.cfg.tickBits) ∧
    framed.pending = frameEvents 1 900 450 (fun _ => 56) nominalSpace 56 ++ [.main] := ⟨by decide, rfl⟩
/-- Slot 0 at 0xFF and at its neighbour 0xFE. -/
theorem witness_BootSelectReadsSentinel : memRead idle.store 0 = 0xFF#8 ∧
    memRead (start [(0, 0xFE)] []).store 0 ≠ 0xFF#8 := by decide
theorem witness_LearnBeginLightsChannel : State.lidx { idle with lidx := 3 } < idle.ch.length := by decide
theorem witness_LearnStoreWritesThrough : idle.WellFormed ∧ State.WellFormed { idle with lidx := 3 } := by decide
theorem witness_LearnStoreAboveKFaults : idle.cfg.k ≤ State.lidx { idle with lidx := 4 } := by decide
theorem witness_LearnWaitBlinks : idle.ltimer = 0 ∧ State.ltimer { idle with ltimer := 1 } ≠ 0 := by decide
theorem witness_LearnNextClearsFrame :
    State.lidx { idle with lidx := 2 } < idle.ch.length ∧ State.lidx { idle with lidx := 2 } + 1 < idle.cfg.k ∧
    State.lidx { idle with lidx := 3 } < idle.ch.length ∧ idle.cfg.k ≤ State.lidx { idle with lidx := 3 } + 1 := by decide
theorem witness_LearnCommitWritesSentinel : Memory.wf idle.store ∧ Memory.wf normal.store := by decide
theorem witness_BootTakesTwoMainSteps : cfg.valid ∧ memRead normal.store 0 ≠ 0xFF#8 ∧ memRead [] 0 = 0xFF#8 := by decide
theorem witness_AllOffForcesChannelsOff : cfg.valid ∧ 3 < normal.ch.length := by decide
theorem witness_DispatchTogglesMatches : normal.keyMap[0]? = some normal.fCmd ∧ normal.ch[0]? = some false ∧
    normal.keyMap[3]? = some 0x13 ∧ normal.ch[3]? = some false := by decide
/-- `EDGE` with the armed direction is selected and completes, with a tick inside and without. -/
theorem witness_EdgeRunsOneDecoderOperation :
    nextIs (exec (.edge (stopping []).armed true) (stopping [])) (fun t => t.tick == 0 && t.ready) = true ∧
    nextIs (exec (.edge (stopping []).armed false) (stopping [])) (fun t => t.tick == 0 && t.ready) = true := by decide

end Sys2Proof.Tests
end

