-- ==== Sys2Proof/Proofs/Timebase.lean ====
section
/-!
PROOF. The Timebase: what `TICK` does (40 R100), and that a tick pulse selects it.
-/

namespace Sys2Proof.Machine

open Sys2Proof

/-- `TICK` completes from every state (40 R100). -/
theorem exec_tick (s : State) :
    exec .tick s = .next { s with tick := (s.tick + 1) % 2 ^ s.cfg.tickBits, ltimer := s.ltimer - 1 } := by
  simp only [exec, execTick, done_eq, countDown_eq]

/-- A step whose atomic step is a tick runs `TICK`. -/
theorem step_of_nextAtom_tick {s : State} (hv : s.cfg.valid) (ha : (nextAtom s).1 = .tick) :
    step s = exec .tick { s with pending := (nextAtom s).2 } :=
  step_eq_exec hv (ha ▸ decode_tick s)

/-- New values of the two counters leave every other register, the configuration and the coming events. -/
theorem frame_counters (s : State) (n l : Nat) : Frame [.tick, .ltimer] s { s with tick := n, ltimer := l } := by
  simp [Frame]

/-- Settles O32: a tick pulse decodes to `TICK`, which writes the two counters and nothing else; truncated subtraction
is the countdown that stops at 0. -/
theorem tickAdvancesCounters : Obligations.TickAdvancesCounters := by
  intro s
  have stopsAtZero : s.ltimer - 1 = if s.ltimer = 0 then 0 else s.ltimer - 1 := by split <;> omega
  exact ⟨step_of_nextAtom_tick, _, exec_tick s, rfl, stopsAtZero, frame_counters s _ _, fun _ _ => rfl⟩

end Sys2Proof.Machine
end

