-- ==== Sys2Proof/Proofs/ProtocolDecoder.lean ====
section
/-!
PROOF. The ProtocolDecoder: what the window table selects for each state and direction (30_encoding R78), what each
decoder operation leaves and keeps (41 R111 to R120), and the statements about single operations.
-/

namespace Sys2Proof.Machine

open Sys2Proof

/-! ### The window table, pair by pair -/

section Selection

variable (c : Config) (t : Nat)

theorem select_awaitLeaderHigh_falling : selectDecoderOp c .awaitLeaderHigh .falling t = .ldrArm := rfl

theorem select_awaitLeaderHigh_rising :
    selectDecoderOp c .awaitLeaderHigh .rising t =
      if (window c .lh).min ≤ t ∧ t ≤ (window c .lh).max then .ldrMark else .mismatch := by
  simp only [selectDecoderOp, inwin_iff]

theorem select_awaitLeaderLow_falling :
    selectDecoderOp c .awaitLeaderLow .falling t =
      if (window c .ll).min ≤ t ∧ t ≤ (window c .ll).max then .ldrSpace
      else if (window c .rp).min ≤ t ∧ t ≤ (window c .rp).max then .rptSpace
      else .mismatch := by
  simp only [selectDecoderOp, inwin_iff]

theorem select_awaitLeaderLow_rising : selectDecoderOp c .awaitLeaderLow .rising t = .mismatch := rfl

theorem select_receivingData_rising :
    selectDecoderOp c .receivingData .rising t =
      if (window c .mk).min ≤ t ∧ t ≤ (window c .mk).max then .bitMark else .mismatch := by
  simp only [selectDecoderOp, inwin_iff]

theorem select_receivingData_falling :
    selectDecoderOp c .receivingData .falling t =
      if (window c .s0).min ≤ t ∧ t ≤ (window c .s0).max then .bitZero
      else if (window c .s1).min ≤ t ∧ t ≤ (window c .s1).max then .bitOne
      else .mismatch := by
  simp only [selectDecoderOp, inwin_iff]

theorem select_awaitStop_rising :
    selectDecoderOp c .awaitStop .rising t =
      if (window c .mk).min ≤ t ∧ t ≤ (window c .mk).max then .stopMark else .mismatch := by
  simp only [selectDecoderOp, inwin_iff]

theorem select_awaitStop_falling : selectDecoderOp c .awaitStop .falling t = .mismatch := rfl

end Selection

/-- The operation selected has its row of the table (30_encoding R78), unless it is `MISMATCH`. -/
theorem tableRow_selectDecoderOp {c : Config} {ds : DState} {d : Direction} {t : Nat}
    (h : selectDecoderOp c ds d t ≠ .mismatch) : TableRow c ds d t (selectDecoderOp c ds d t) := by
  revert h
  cases ds <;> cases d
  case awaitLeaderHigh.falling => exact fun _ => ⟨rfl, rfl⟩
  case awaitLeaderHigh.rising =>
    rw [select_awaitLeaderHigh_rising]
    split_ifs with hlh
    · exact fun _ => ⟨rfl, rfl, hlh⟩
    · exact absurd rfl
  case awaitLeaderLow.falling =>
    rw [select_awaitLeaderLow_falling]
    split_ifs with hll hrp
    · exact fun _ => ⟨rfl, rfl, hll⟩
    · exact fun _ => ⟨rfl, rfl, hrp⟩
    · exact absurd rfl
  case awaitLeaderLow.rising => exact absurd rfl
  case receivingData.falling =>
    rw [select_receivingData_falling]
    split_ifs with hs0 hs1
    · exact fun _ => ⟨rfl, rfl, hs0⟩
    · exact fun _ => ⟨rfl, rfl, hs1⟩
    · exact absurd rfl
  case receivingData.rising =>
    rw [select_receivingData_rising]
    split_ifs with hmk
    · exact fun _ => ⟨rfl, rfl, hmk⟩
    · exact absurd rfl
  case awaitStop.falling => exact absurd rfl
  case awaitStop.rising =>
    rw [select_awaitStop_rising]
    split_ifs with hmk
    · exact fun _ => ⟨rfl, rfl, hmk⟩
    · exact absurd rfl

/-- Where some row of the table holds, the event is no mismatch: if another row is tested before it, that one runs. -/
theorem select_ne_mismatch_of_tableRow {c : Config} {ds : DState} {d : Direction} {t : Nat} {op : DecoderOp}
    (h : TableRow c ds d t op) : selectDecoderOp c ds d t ≠ .mismatch := by
  cases op with
  | ldrArm =>
    obtain ⟨rfl, rfl⟩ := h
    simp [select_awaitLeaderHigh_falling]
  | ldrMark =>
    obtain ⟨rfl, rfl, hlh⟩ := h
    simp [select_awaitLeaderHigh_rising, hlh]
  | ldrSpace =>
    obtain ⟨rfl, rfl, hll⟩ := h
    simp [select_awaitLeaderLow_falling, hll]
  | rptSpace =>
    obtain ⟨rfl, rfl, hrp⟩ := h
    rw [select_awaitLeaderLow_falling, if_pos hrp]
    split_ifs <;> decide
  | bitMark =>
    obtain ⟨rfl, rfl, hmk⟩ := h
    simp [select_receivingData_rising, hmk]
  | bitZero =>
    obtain ⟨rfl, rfl, hs0⟩ := h
    simp [select_receivingData_falling, hs0]
  | bitOne =>
    obtain ⟨rfl, rfl, hs1⟩ := h
    rw [select_receivingData_falling, if_pos hs1]
    split_ifs <;> decide
  | stopMark =>
    obtain ⟨rfl, rfl, hmk⟩ := h
    simp [select_awaitStop_rising, hmk]
  | mismatch => exact h.elim

/-- `MISMATCH` is selected exactly where no row of the table holds (30_encoding R78, R81). -/
theorem select_eq_mismatch_iff (c : Config) (ds : DState) (d : Direction) (t : Nat) :
    selectDecoderOp c ds d t = .mismatch ↔ ∀ op, ¬ TableRow c ds d t op := by
  constructor
  · exact fun hsel _ hrow => select_ne_mismatch_of_tableRow hrow hsel
  · intro hnone
    by_contra hne
    exact hnone _ (tableRow_selectDecoderOp hne)

/-! ### What each operation leaves -/

section Outcomes

variable (t : Nat) (s : State)

theorem exec_ldrArm : exec (.ldrArm t) s = .next { s with armed := .rising } := rfl

theorem exec_ldrMark : exec (.ldrMark t) s = .next { s with dstate := .awaitLeaderLow, armed := .falling } := rfl

theorem exec_ldrSpace :
    exec (.ldrSpace t) s = .next { s with dstate := .receivingData, armed := .rising, bitIndex := 0 } := rfl

theorem exec_bitMark : exec (.bitMark t) s = .next { s with armed := .falling } := rfl

theorem exec_bitZero : exec (.bitZero t) s = .next (shiftIn false s) := rfl

theorem exec_bitOne : exec (.bitOne t) s = .next (shiftIn true s) := rfl

theorem exec_mismatch (ds : DState) (d : Direction) : exec (.mismatch ds d t) s = .next (decoderReset s) := rfl

end Outcomes

/-- When the frame is published (41 R119). -/
theorem checksumValid_iff (addr addrN cmd cmdN : Byte) :
    checksumValid addr addrN cmd cmdN = true ↔ addr ^^^ addrN = 0xFF#8 ∧ cmd ^^^ cmdN = 0xFF#8 := by
  simp [checksumValid]

theorem readyAfterStop_eq (ready : Bool) (addr addrN cmd cmdN : Byte) :
    readyAfterStop ready addr addrN cmd cmdN =
      if addr ^^^ addrN = 0xFF#8 ∧ cmd ^^^ cmdN = 0xFF#8 then true else ready := by
  simp only [readyAfterStop, checksumValid_iff]

/-- `STOP_MARK` resets the decoder in both branches; a dropped frame leaves `ready` at what `readyAfterStop` gives
too, so one state describes both (41 R119). -/
theorem exec_stopMark (t : Nat) (s : State) :
    exec (.stopMark t) s =
      .next (decoderReset { s with ready := readyAfterStop s.ready s.fAddr s.fAddrN s.fCmd s.fCmdN }) := by
  simp only [exec, execStopMark]
  split_ifs with hv
  · rfl
  · simp [readyAfterStop, hv]

/-! ### What each operation keeps -/

theorem frame_armed (s : State) (d : Direction) : Frame [.armed] s { s with armed := d } := by
  simp [Frame]

theorem frame_dstate_armed (s : State) (ds : DState) (d : Direction) :
    Frame [.dstate, .armed] s { s with dstate := ds, armed := d } := by
  simp [Frame]

theorem frame_dstate_armed_bitIndex (s : State) (ds : DState) (d : Direction) (i : BitIndex) :
    Frame [.dstate, .armed, .bitIndex] s { s with dstate := ds, armed := d, bitIndex := i } := by
  simp [Frame]

theorem frame_decoderReset (s : State) : Frame [.dstate, .armed, .bitIndex] s (decoderReset s) :=
  frame_dstate_armed_bitIndex s _ _ _

theorem frame_decoderReset_ready (s : State) (r : Bool) :
    Frame [.ready, .dstate, .armed, .bitIndex] s (decoderReset { s with ready := r }) := by
  simp [Frame]

theorem frame_shiftIn (b : Bool) (s : State) :
    Frame [.frame, .fAddr, .fAddrN, .fCmd, .fCmdN, .dstate, .bitIndex, .armed] s (shiftIn b s) := by
  simp [Frame]

/-! ### SHIFT_IN, bit by bit -/

/-- A DecodedFrame register that takes frame byte `j` when `finished` and otherwise keeps its value, said by bits. -/
theorem snapshot_bits (finished : Prop) [Decidable finished] (f : FrameWord) (j : Nat) (old : Byte) :
    if finished then ∀ n < 8, (if finished then frameByte f j else old).getLsbD n = f.getLsbD (8 * j + n)
    else (if finished then frameByte f j else old) = old := by
  split_ifs
  · exact fun n hn => getLsbD_frameByte f j n hn
  · rfl

/-- `SHIFT_IN` places the bit, snapshots a finished byte and counts, in every state (41 R118). -/
theorem shiftedIn_shiftIn (b : Bool) (s : State) : ShiftedIn b s (shiftIn b s) := by
  have hi : s.bitIndex.toNat < 32 := s.bitIndex.isLt
  refine ⟨fun j hj => getLsbD_setFrameBit s.frame _ j b hi hj, ?_, snapshot_bits _ _ 1 _, snapshot_bits _ _ 2 _,
    snapshot_bits _ _ 3 _, rfl, BitVec.toNat_add s.bitIndex 1, rfl⟩
  simpa using snapshot_bits (s.bitIndex.toNat = 7) (shiftIn b s).frame 0 s.fAddr

/-! ### The statements -/

/-- Settles O41: both operations are `SHIFT_IN` of their bit, so one lemma about `shiftIn` serves them. -/
theorem decidedBitsShiftIn : Obligations.DecidedBitsShiftIn := by
  intro s t
  exact ⟨select_receivingData_falling s.cfg t,
    ⟨_, exec_bitZero t s, shiftedIn_shiftIn false s, frame_shiftIn false s, fun _ _ => rfl⟩,
    ⟨_, exec_bitOne t s, shiftedIn_shiftIn true s, frame_shiftIn true s, fun _ _ => rfl⟩⟩

/-- Settles O36: the row has no window, and the operation writes `armed` alone. -/
theorem leaderArmAcceptsAnyInterval : Obligations.LeaderArmAcceptsAnyInterval := by
  intro s t
  exact ⟨select_awaitLeaderHigh_falling s.cfg t, _, exec_ldrArm t s, rfl, frame_armed s _, fun _ _ => rfl⟩

/-- Settles O37, from the row's window and the two registers written. -/
theorem leaderMarkAwaitsSpace : Obligations.LeaderMarkAwaitsSpace := by
  intro s t
  exact ⟨select_awaitLeaderHigh_rising s.cfg t, _, exec_ldrMark t s, rfl, rfl, frame_dstate_armed s _ _,
    fun _ _ => rfl⟩

/-- Settles O38: the two rows of the pair are tested in the table's order, whatever the configuration. -/
theorem leaderSpaceBeginsFrame : Obligations.LeaderSpaceBeginsFrame := by
  intro s t
  exact ⟨select_awaitLeaderLow_falling s.cfg t, _, exec_ldrSpace t s, rfl, rfl, rfl,
    frame_dstate_armed_bitIndex s _ _ _, fun _ _ => rfl⟩

/-- Settles O40, from the row's window and the one register written. -/
theorem bitMarkArmsFalling : Obligations.BitMarkArmsFalling := by
  intro s t
  exact ⟨select_receivingData_rising s.cfg t, _, exec_bitMark t s, rfl, frame_armed s _, fun _ _ => rfl⟩

/-- Settles O42: both branches end in the local reset, and `readyAfterStop` says what becomes of `ready`. -/
theorem stopMarkPublishesValidFrame : Obligations.StopMarkPublishesValidFrame := by
  intro s t
  exact ⟨select_awaitStop_rising s.cfg t, _, exec_stopMark t s, readyAfterStop_eq .., rfl, rfl, rfl,
    frame_decoderReset_ready s _, fun _ _ => rfl⟩

/-- Settles O43: that no row holds means `MISMATCH` even where windows overlap, so validity is not used. -/
theorem mismatchResetsLocally : Obligations.MismatchResetsLocally := by
  intro s ds d t
  exact ⟨fun _ => select_eq_mismatch_iff s.cfg ds d t, select_awaitLeaderLow_rising s.cfg t,
    select_awaitStop_falling s.cfg t, _, exec_mismatch t s ds d, rfl, rfl, rfl, frame_decoderReset s, fun _ _ => rfl⟩

end Sys2Proof.Machine
end

