-- ==== Sys2Proof/Proofs/KeyMapper.lean ====
section
/-!
PROOF. The KeyMapper: which operation the main loop selects (30_encoding R79), what the boot and learning operations
leave and keep (42 R131 to R137), and the statements about single operations.
-/

namespace Sys2Proof.Machine

open Sys2Proof

/-! ### The main loop's table, row by row -/

/-- The rows of the main loop's table (30_encoding R79; 43 R150), each with all of its condition; the events' operations
have no row. -/
def MainRow (s : State) : Instr → Prop
  | .bootSelect => s.mstate = .boot
  | .keyLoad => s.mstate = .load
  | .learnBegin => s.mstate = .learnBegin
  | .learnStore => s.mstate = .learnWait ∧ s.ready = true ∧ s.fCmd ≠ s.cfg.relearnCode
  | .learnWait => s.mstate = .learnWait ∧ ¬ (s.ready = true ∧ s.fCmd ≠ s.cfg.relearnCode)
  | .learnHold => s.mstate = .learnHold ∧ s.ltimer ≠ 0
  | .learnNext => s.mstate = .learnHold ∧ s.ltimer = 0
  | .learnCommit => s.mstate = .commit
  | .pollIdle => s.mstate = .normal ∧ s.ready = false
  | .relearn => s.mstate = .normal ∧ s.ready = true ∧ s.fCmd = s.cfg.relearnCode
  | .allOff =>
    s.mstate = .normal ∧ s.ready = true ∧ s.fCmd ≠ s.cfg.relearnCode ∧ s.fCmd = Config.allOffCode
  | .dispatch =>
    s.mstate = .normal ∧ s.ready = true ∧ s.fCmd ≠ s.cfg.relearnCode ∧ s.fCmd ≠ Config.allOffCode
  | _ => False

section Selection

variable {s : State}

theorem mainOp_of_boot (h : s.mstate = .boot) : s.mainOp = .bootSelect := by
  simp [State.mainOp, selectMainOp, h]

theorem mainOp_of_load (h : s.mstate = .load) : s.mainOp = .keyLoad := by
  simp [State.mainOp, selectMainOp, h]

theorem mainOp_of_learnBegin (h : s.mstate = .learnBegin) : s.mainOp = .learnBegin := by
  simp [State.mainOp, selectMainOp, h]

theorem mainOp_of_learnWait (h : s.mstate = .learnWait) :
    s.mainOp = if s.ready = true ∧ s.fCmd ≠ s.cfg.relearnCode then .learnStore else .learnWait := by
  simp [State.mainOp, selectMainOp, h]

theorem mainOp_of_learnHold (h : s.mstate = .learnHold) :
    s.mainOp = if s.ltimer = 0 then .learnNext else .learnHold := by
  simp [State.mainOp, selectMainOp, h]

theorem mainOp_of_commit (h : s.mstate = .commit) : s.mainOp = .learnCommit := by
  simp [State.mainOp, selectMainOp, h]

theorem mainOp_of_normal (h : s.mstate = .normal) :
    s.mainOp =
      if s.ready = false then .pollIdle
      else if s.fCmd = s.cfg.relearnCode then .relearn
      else if s.fCmd = Config.allOffCode then .allOff
      else .dispatch := by
  simp [State.mainOp, selectMainOp, h]

/-- The operation selected has its row. -/
theorem mainRow_mainOp (s : State) : MainRow s s.mainOp := by
  cases hm : s.mstate with
  | boot => rwa [mainOp_of_boot hm]
  | load => rwa [mainOp_of_load hm]
  | learnBegin => rwa [mainOp_of_learnBegin hm]
  | learnWait =>
    rw [mainOp_of_learnWait hm]
    split_ifs with hframe
    · exact ⟨hm, hframe⟩
    · exact ⟨hm, hframe⟩
  | learnHold =>
    rw [mainOp_of_learnHold hm]
    split_ifs with hover
    · exact ⟨hm, hover⟩
    · exact ⟨hm, hover⟩
  | commit => rwa [mainOp_of_commit hm]
  | normal =>
    rw [mainOp_of_normal hm]
    split_ifs with hready hrelearn hoff
    · exact ⟨hm, hready⟩
    · exact ⟨hm, Bool.eq_true_of_not_eq_false hready, hrelearn⟩
    · exact ⟨hm, Bool.eq_true_of_not_eq_false hready, hrelearn, hoff⟩
    · exact ⟨hm, Bool.eq_true_of_not_eq_false hready, hrelearn, hoff⟩

/-- The rows exclude each other: no two operations have theirs in one state. -/
theorem mainOp_of_mainRow {op : Instr} (h : MainRow s op) : s.mainOp = op := by
  cases op with
  | bootSelect => exact mainOp_of_boot h
  | keyLoad => exact mainOp_of_load h
  | learnBegin => exact mainOp_of_learnBegin h
  | learnStore =>
    obtain ⟨hm, hframe⟩ := h
    rw [mainOp_of_learnWait hm, if_pos hframe]
  | learnWait =>
    obtain ⟨hm, hnone⟩ := h
    rw [mainOp_of_learnWait hm, if_neg hnone]
  | learnHold =>
    obtain ⟨hm, htiming⟩ := h
    rw [mainOp_of_learnHold hm, if_neg htiming]
  | learnNext =>
    obtain ⟨hm, hover⟩ := h
    rw [mainOp_of_learnHold hm, if_pos hover]
  | learnCommit => exact mainOp_of_commit h
  | pollIdle =>
    obtain ⟨hm, hready⟩ := h
    rw [mainOp_of_normal hm, if_pos hready]
  | relearn =>
    obtain ⟨hm, hready, hrelearn⟩ := h
    simp [mainOp_of_normal hm, hready, hrelearn]
  | allOff =>
    obtain ⟨hm, hready, hrelearn, hoff⟩ := h
    rw [mainOp_of_normal hm, if_neg (by simp [hready]), if_neg hrelearn, if_pos hoff]
  | dispatch =>
    obtain ⟨hm, hready, hrelearn, hoff⟩ := h
    rw [mainOp_of_normal hm, if_neg (by simp [hready]), if_neg hrelearn, if_neg hoff]
  | _ => exact h.elim

/-- Each main-loop operation is selected exactly where its row holds (30_encoding R79). -/
theorem mainOp_eq_iff (s : State) (op : Instr) : s.mainOp = op ↔ MainRow s op :=
  ⟨fun h => h ▸ mainRow_mainOp s, mainOp_of_mainRow⟩

end Selection

/-! ### What each operation leaves -/

section Outcomes

variable (s : State)

/-- Both branches of `BOOT_SELECT` in one state (42 R131). -/
theorem exec_bootSelect :
    exec .bootSelect s = .next { s with
      lidx := if memRead s.store sentinelSlot = Config.sentUninit then 0 else s.lidx
      mstate := if memRead s.store sentinelSlot = Config.sentUninit then .learnBegin else .load } := by
  simp only [exec, execBootSelect]
  split_ifs
  · rfl
  · rfl

theorem exec_keyLoad :
    exec .keyLoad s =
      .next { s with keyMap := readKeys s.store s.cfg.k, statusMode := .solid, mstate := .normal } := rfl

theorem exec_learnBegin :
    exec .learnBegin s = .next { s with
      ch := s.ch.set s.lidx true
      statusMode := .blink
      blinkPhase := true
      ltimer := s.cfg.blinkHalfTicks
      mstate := .learnWait } := rfl

/-- Both branches of `LEARN_WAIT` in one state (42 R135). -/
theorem exec_learnWait :
    exec .learnWait s = .next { s with
      blinkPhase := if s.ltimer = 0 then !s.blinkPhase else s.blinkPhase
      ltimer := if s.ltimer = 0 then s.cfg.blinkHalfTicks else s.ltimer } := by
  simp only [exec, execLearnWait]
  split_ifs
  · rfl
  · rfl

theorem exec_learnHold : exec .learnHold s = .next s := rfl

/-- Both branches of `LEARN_NEXT` in one state (42 R137). -/
theorem exec_learnNext :
    exec .learnNext s = .next { s with
      ch := s.ch.set s.lidx false
      ready := false
      lidx := if s.lidx + 1 < s.cfg.k then s.lidx + 1 else 0
      mstate := if s.lidx + 1 < s.cfg.k then .learnBegin else .commit } := by
  simp only [exec, execLearnNext]
  split_ifs
  · rfl
  · rfl

end Outcomes

/-- The entries of a register array (`ch`, `KeyMap`) after a write at an index it has; the test is written as the
statements write it. -/
theorem getElem?_set_eq_ite_of_lt {α : Type} {l : List α} {n : Nat} (h : n < l.length) (a : α) (i : Nat) :
    (l.set n a)[i]? = if i = n then some a else l[i]? := by
  rw [List.getElem?_set, if_pos h]
  simp only [eq_comm]

/-! ### What each operation keeps -/

theorem frame_refl (s : State) : Frame [] s s := by
  simp [Frame]

theorem frame_lidx_mstate (s : State) (n : Nat) (m : MState) :
    Frame [.lidx, .mstate] s { s with lidx := n, mstate := m } := by
  simp [Frame]

theorem frame_keyMap_statusMode_mstate (s : State) (keys : List Byte) (sm : StatusMode) (m : MState) :
    Frame [.keyMap, .statusMode, .mstate] s { s with keyMap := keys, statusMode := sm, mstate := m } := by
  simp [Frame]

theorem frame_indicatorBlink (s : State) (levels : List Bool) (sm : StatusMode) (p : Bool) (n : Nat) (m : MState) :
    Frame [.ch, .statusMode, .blinkPhase, .ltimer, .mstate] s
      { s with ch := levels, statusMode := sm, blinkPhase := p, ltimer := n, mstate := m } := by
  simp [Frame]

theorem frame_blinkPhase_ltimer (s : State) (p : Bool) (n : Nat) :
    Frame [.blinkPhase, .ltimer] s { s with blinkPhase := p, ltimer := n } := by
  simp [Frame]

theorem frame_ch_ready_lidx_mstate (s : State) (levels : List Bool) (r : Bool) (n : Nat) (m : MState) :
    Frame [.ch, .ready, .lidx, .mstate] s { s with ch := levels, ready := r, lidx := n, mstate := m } := by
  simp [Frame]

/-! ### The statements -/

/-- Settles O45: any byte other than 0xFF, and not 0x00 alone, takes the loading branch. -/
theorem bootSelectReadsSentinel : Obligations.BootSelectReadsSentinel := by
  intro s
  exact ⟨mainOp_eq_iff s .bootSelect, _, exec_bootSelect s, fun hff => ⟨if_pos hff, if_pos hff⟩,
    fun hne => ⟨if_neg hne, if_neg hne⟩, frame_lidx_mstate s _ _, fun _ _ => rfl⟩

/-- Settles O46: the keys are those of `readKeys`, whose entry j is the byte of slot j + 1. -/
theorem keyLoadCopiesSlots : Obligations.KeyLoadCopiesSlots := by
  intro s
  exact ⟨mainOp_eq_iff s .keyLoad, _, exec_keyLoad s, readKeys_length .., fun j => readKeys_getElem? _ _ j, rfl, rfl,
    frame_keyMap_statusMode_mstate s _ _ _, fun _ _ => rfl⟩

/-- Settles O47: writing one entry of `ch` lights that channel and leaves the others. -/
theorem learnBeginLightsChannel : Obligations.LearnBeginLightsChannel := by
  intro s hlidx
  exact ⟨mainOp_eq_iff s .learnBegin, _, exec_learnBegin s, getElem?_set_eq_ite_of_lt hlidx true, rfl, rfl, rfl, rfl,
    frame_indicatorBlink s _ _ _ _ _, fun _ _ => rfl⟩

/-- Settles O50, from the one state that describes both branches. -/
theorem learnWaitBlinks : Obligations.LearnWaitBlinks := by
  intro s
  exact ⟨mainOp_eq_iff s .learnWait, _, exec_learnWait s, fun hover => ⟨if_pos hover, if_pos hover⟩,
    fun htiming => ⟨if_neg htiming, if_neg htiming⟩, frame_blinkPhase_ltimer s _ _, fun _ _ => rfl⟩

/-- Settles O51: the operation leaves the state it was given. -/
theorem learnHoldWritesNothing : Obligations.LearnHoldWritesNothing := by
  intro s
  exact ⟨mainOp_eq_iff s .learnHold, s, exec_learnHold s, frame_refl s, fun _ _ => rfl⟩

/-- Settles O52: K ≤ lidx + 1 is where the test of `LEARN_NEXT` fails. -/
theorem learnNextClearsFrame : Obligations.LearnNextClearsFrame := by
  intro s hlidx
  refine ⟨mainOp_eq_iff s .learnNext, _, exec_learnNext s, getElem?_set_eq_ite_of_lt hlidx false, rfl,
    fun hmore => ⟨if_pos hmore, if_pos hmore⟩, fun hlast => ?_, frame_ch_ready_lidx_mstate s _ _ _ _, fun _ _ => rfl⟩
  have hdone : ¬ s.lidx + 1 < s.cfg.k := Nat.not_lt.mpr hlast
  exact ⟨if_neg hdone, if_neg hdone⟩

end Sys2Proof.Machine
end

