-- ==== Sys2Proof/Proofs/CommandDispatcher.lean ====
section
/-!
PROOF. The CommandDispatcher: what the operations of Normal mode leave and keep (43 R151 to R154), and the statements
about them. Where each is selected is its row of the main loop's table.
-/

namespace Sys2Proof.Machine

open Sys2Proof

/-! ### What each operation leaves -/

section Outcomes

variable (s : State)

theorem exec_pollIdle : exec .pollIdle s = .next s := rfl

theorem exec_relearn : exec .relearn s = .next { s with ready := false, lidx := 0, mstate := .learnBegin } := rfl

theorem exec_allOff : exec .allOff s = .next { s with ch := s.ch.map fun _ => false, ready := false } := rfl

theorem exec_dispatch :
    exec .dispatch s = .next { s with
      ch := s.ch.mapIdx fun i level => if s.keyMap[i]? = some s.fCmd then !level else level
      ready := false } := rfl

end Outcomes

/-- Every channel that exists is off after `ALL_OFF` (43 R152). -/
theorem getElem?_map_false_of_lt {levels : List Bool} {i : Nat} (h : i < levels.length) :
    (levels.map fun _ => false)[i]? = some false := by
  rw [List.getElem?_map, List.getElem?_eq_getElem h, Option.map_some]

/-- A channel with a KeyMap entry toggles if the entry is the command and keeps its level otherwise (43 R153). -/
theorem getElem?_toggleMatches {keys : List Byte} {levels : List Bool} {i : Nat} {code : Byte} {level : Bool}
    (cmd : Byte) (hcode : keys[i]? = some code) (hlevel : levels[i]? = some level) :
    (levels.mapIdx fun i level => if keys[i]? = some cmd then !level else level)[i]? =
      some (if code = cmd then !level else level) := by
  simp only [List.getElem?_mapIdx, hlevel, hcode, Option.map_some, Option.some.injEq]

/-! ### What each operation keeps -/

theorem frame_ready_lidx_mstate (s : State) (r : Bool) (n : Nat) (m : MState) :
    Frame [.ready, .lidx, .mstate] s { s with ready := r, lidx := n, mstate := m } := by
  simp [Frame]

theorem frame_ch_ready (s : State) (levels : List Bool) (r : Bool) :
    Frame [.ch, .ready] s { s with ch := levels, ready := r } := by
  simp [Frame]

/-! ### Where ALL_OFF is selected -/

/-- In a valid configuration the two reserved codes differ, so the re-learn test that comes first never takes an
all-off command (00_scope R6, 43 R150). -/
theorem mainOp_eq_allOff_iff {s : State} (hv : s.cfg.valid) :
    s.mainOp = .allOff ↔ s.mstate = .normal ∧ s.ready = true ∧ s.fCmd = Config.allOffCode := by
  obtain ⟨-, -, -, -, -, hcodes, -, -⟩ := hv
  rw [mainOp_eq_iff]
  constructor
  · rintro ⟨hm, hready, -, hoff⟩
    exact ⟨hm, hready, hoff⟩
  · rintro ⟨hm, hready, hoff⟩
    have hrelearn : s.fCmd ≠ s.cfg.relearnCode := hoff ▸ hcodes.symm
    exact ⟨hm, hready, hrelearn, hoff⟩

/-! ### The statements -/

/-- Settles O55: the operation leaves the state it was given. -/
theorem pollIdleWritesNothing : Obligations.PollIdleWritesNothing := by
  intro s
  exact ⟨mainOp_eq_iff s .pollIdle, s, exec_pollIdle s, frame_refl s, fun _ _ => rfl⟩

/-- Settles O56, from the three registers written; the store is not among what `RELEARN` touches. -/
theorem relearnRestartsLearning : Obligations.RelearnRestartsLearning := by
  intro s
  exact ⟨mainOp_eq_iff s .relearn, _, exec_relearn s, rfl, rfl, rfl, frame_ready_lidx_mstate s _ _ _, fun _ _ => rfl⟩

/-- Settles O57: validity serves the selection alone, and no channel's former level is read. -/
theorem allOffForcesChannelsOff : Obligations.AllOffForcesChannelsOff := by
  intro s
  exact ⟨mainOp_eq_allOff_iff, _, exec_allOff s, List.length_map _, fun _ => getElem?_map_false_of_lt, rfl,
    frame_ch_ready s _ _, fun _ _ => rfl⟩

/-- Settles O58: each channel is decided by its own KeyMap entry, whatever the other entries are. -/
theorem dispatchTogglesMatches : Obligations.DispatchTogglesMatches := by
  intro s
  exact ⟨mainOp_eq_iff s .dispatch, _, exec_dispatch s, List.length_mapIdx,
    fun _ _ _ hcode hlevel => getElem?_toggleMatches s.fCmd hcode hlevel, rfl, frame_ch_ready s _ _, fun _ _ => rfl⟩

end Sys2Proof.Machine
end

/-!
PROOF. The statements about the model as a whole: its decoder and encoder, what its operations write, what a step runs
and keeps, and the runs of several steps. The parts stand in the order in which they use each other.
-/

namespace Sys2Proof.Machine

open Sys2Proof

/-! ## Selector words

Selector words and the operation map: the window table row by row (30_encoding R78, R81), what an EV word
decodes to and what encodes to it (R91), and the statements about decoder and encoder. -/

/-! ### The window table -/

/-- In a valid configuration the row that holds is the one selected: where one pair has two rows, their windows are
apart (00_scope R6). -/
theorem select_of_tableRow {c : Config} {ds : DState} {d : Direction} {t : Nat} {op : DecoderOp} (hv : c.valid)
    (h : TableRow c ds d t op) : selectDecoderOp c ds d t = op := by
  obtain ⟨-, -, -, ⟨hrpll, hs0s1⟩, -⟩ := hv
  cases op with
  | ldrArm =>
    obtain ⟨rfl, rfl⟩ := h
    rfl
  | ldrMark =>
    obtain ⟨rfl, rfl, hlh⟩ := h
    rw [select_awaitLeaderHigh_rising, if_pos hlh]
  | ldrSpace =>
    obtain ⟨rfl, rfl, hll⟩ := h
    rw [select_awaitLeaderLow_falling, if_pos hll]
  | rptSpace =>
    obtain ⟨rfl, rfl, hrp⟩ := h
    rw [select_awaitLeaderLow_falling, if_neg (by omega), if_pos hrp]
  | bitMark =>
    obtain ⟨rfl, rfl, hmk⟩ := h
    rw [select_receivingData_rising, if_pos hmk]
  | bitZero =>
    obtain ⟨rfl, rfl, hs0⟩ := h
    rw [select_receivingData_falling, if_pos hs0]
  | bitOne =>
    obtain ⟨rfl, rfl, hs1⟩ := h
    rw [select_receivingData_falling, if_neg (by omega), if_pos hs1]
  | stopMark =>
    obtain ⟨rfl, rfl, hmk⟩ := h
    rw [select_awaitStop_rising, if_pos hmk]
  | mismatch => exact h.elim

/-- The selected operation is `MISMATCH` or has its row. -/
theorem tableRow_or_mismatch (c : Config) (ds : DState) (d : Direction) (t : Nat) :
    TableRow c ds d t (selectDecoderOp c ds d t) ∨ selectDecoderOp c ds d t = .mismatch :=
  (em _).symm.imp_left tableRow_selectDecoderOp

/-- Settles O5: validity serves the direction from the row to the selection alone. -/
theorem windowTableSelectsRows : Obligations.WindowTableSelectsRows := by
  intro c ds d t hv
  refine ⟨fun op hop => ⟨?_, select_of_tableRow hv⟩, select_eq_mismatch_iff c ds d t⟩
  rintro rfl
  exact tableRow_selectDecoderOp hop

/-! ### The spec's windows -/

section SpecWindows

variable (k : Nat) (relearn : Byte) (blink confirm ltBits : Nat)

theorem spec_window_lh : window (Config.spec k relearn blink confirm ltBits) .lh = ⟨800, 1100⟩ := by
  simp [window, windowUs, ticksOf, Config.spec]
theorem spec_window_ll : window (Config.spec k relearn blink confirm ltBits) .ll = ⟨300, 600⟩ := by
  simp [window, windowUs, ticksOf, Config.spec]
theorem spec_window_rp : window (Config.spec k relearn blink confirm ltBits) .rp = ⟨200, 250⟩ := by
  simp [window, windowUs, ticksOf, Config.spec]
theorem spec_window_mk : window (Config.spec k relearn blink confirm ltBits) .mk = ⟨20, 80⟩ := by
  simp [window, windowUs, ticksOf, Config.spec]
theorem spec_window_s0 : window (Config.spec k relearn blink confirm ltBits) .s0 = ⟨20, 80⟩ := by
  simp [window, windowUs, ticksOf, Config.spec]
theorem spec_window_s1 : window (Config.spec k relearn blink confirm ltBits) .s1 = ⟨120, 230⟩ := by
  simp [window, windowUs, ticksOf, Config.spec]

end SpecWindows

/-- A row with a window is passed over exactly outside the window. -/
theorem ite_eq_mismatch_iff {p : Prop} [Decidable p] {op other : DecoderOp} (hop : op ≠ .mismatch) :
    (if p then op else other) = .mismatch ↔ ¬ p ∧ other = .mismatch := by
  by_cases hp : p <;> simp [hp, hop]

/-- Settles O6: the gaps that the windows of each pair leave, as intervals. -/
theorem mismatchIntervalsOfSpecWindows : Obligations.MismatchIntervalsOfSpecWindows := by
  intro k relearn blink confirm ltBits ds d t
  cases ds <;> cases d
  case awaitLeaderHigh.falling => simp [select_awaitLeaderHigh_falling]
  case awaitLeaderHigh.rising =>
    rw [select_awaitLeaderHigh_rising, ite_eq_mismatch_iff (by decide), spec_window_lh]
    simp only [and_true]
    omega
  case awaitLeaderLow.falling =>
    rw [select_awaitLeaderLow_falling, ite_eq_mismatch_iff (by decide), ite_eq_mismatch_iff (by decide),
      spec_window_ll, spec_window_rp]
    simp only [and_true]
    omega
  case awaitLeaderLow.rising => simp [select_awaitLeaderLow_rising]
  case receivingData.falling =>
    rw [select_receivingData_falling, ite_eq_mismatch_iff (by decide), ite_eq_mismatch_iff (by decide),
      spec_window_s0, spec_window_s1]
    simp only [and_true]
    omega
  case receivingData.rising =>
    rw [select_receivingData_rising, ite_eq_mismatch_iff (by decide), spec_window_mk]
    simp only [and_true]
    omega
  case awaitStop.falling => simp [select_awaitStop_falling]
  case awaitStop.rising =>
    rw [select_awaitStop_rising, ite_eq_mismatch_iff (by decide), spec_window_mk]
    simp only [and_true]
    omega

/-- Settles O7: the constraints on windows and counter hold of the spec's numbers, those on the open parameters are
left. -/
theorem specConfigurationIsValid : Obligations.SpecConfigurationIsValid := by
  intro k relearn blink confirm ltBits
  refine ⟨spec_window_lh .., spec_window_ll .., spec_window_rp .., spec_window_mk .., spec_window_s0 ..,
    spec_window_s1 .., ?_⟩
  simp only [Config.valid, spec_window_lh, spec_window_ll, spec_window_rp, spec_window_mk, spec_window_s0,
    spec_window_s1]
  simp only [Config.spec, Config.allOffCode]
  constructor
  · rintro ⟨⟨hk, hk'⟩, -, -, -, -, hcode, ⟨hb, hc⟩, hb', hc'⟩
    exact ⟨hk, hk', hcode, hb, hc, hb', hc'⟩
  · rintro ⟨hk, hk', hcode, hb, hc, hb', hc'⟩
    exact ⟨⟨hk, hk'⟩, by decide, by decide, by decide, by norm_num, hcode, ⟨hb, hc⟩, hb', hc'⟩

/-! ### EV words -/

/-- The three selector bits of an EV word give back the decoder state and the direction (R91). -/
theorem selector_bits (ds : DState) (d : Direction) :
    dstateOf ((2 * dstateCode ds + dirCode d).testBit 2) ((2 * dstateCode ds + dirCode d).testBit 1) = ds ∧
      dirOf ((2 * dstateCode ds + dirCode d).testBit 0) = d ∧ 2 * dstateCode ds + dirCode d < 8 := by
  cases ds <;> cases d <;> decide

/-- The codes of the decoder state and the direction give back the three selector bits (R91). -/
theorem selector_codes {sel : Nat} (h : sel < 8) :
    2 * dstateCode (dstateOf (sel.testBit 2) (sel.testBit 1)) + dirCode (dirOf (sel.testBit 0)) = sel := by
  have all : ∀ n : Fin 8,
      2 * dstateCode (dstateOf (n.val.testBit 2) (n.val.testBit 1)) + dirCode (dirOf (n.val.testBit 0)) = n.val := by
    decide
  exact all ⟨sel, h⟩

/-- An EV word decodes to the operation the window table selects for its state, direction and interval. -/
theorem decodeEv_evWord (c : Config) (ds : DState) (d : Direction) {t : Nat} (ht : intervalFits c t = true) :
    decodeEv c (evWord c ds d t) = .ok (decoderInstr ds d t (selectDecoderOp c ds d t)) := by
  have ht' : t < 2 ^ c.tickBits := by simpa [intervalFits] using ht
  have hmod : evWord c ds d t % 2 ^ c.tickBits = t := by
    rw [evWord, Nat.add_comm, Nat.add_mul_mod_self_right, Nat.mod_eq_of_lt ht']
  have hdiv : evWord c ds d t / 2 ^ c.tickBits = 2 * dstateCode ds + dirCode d := by
    rw [evWord, Nat.add_comm, Nat.add_mul_div_right _ _ (Nat.two_pow_pos _), Nat.div_eq_of_lt ht', Nat.zero_add]
  obtain ⟨hds, hd, hlt⟩ := selector_bits ds d
  simp only [decodeEv, hmod, hdiv, hds, hd, hlt, if_true]

/-- Whatever the EV decoder answers is the selected operation of the word's own state, direction and interval. -/
theorem decodeEv_ok {c : Config} {w : Nat} {i : Instr} (h : decodeEv c w = .ok i) :
    ∃ ds d t, intervalFits c t = true ∧ evWord c ds d t = w ∧
      i = decoderInstr ds d t (selectDecoderOp c ds d t) := by
  simp only [decodeEv] at h
  split_ifs at h with hsel
  cases h
  refine ⟨_, _, _, ?_, ?_, rfl⟩
  · simpa [intervalFits] using Nat.mod_lt w (Nat.two_pow_pos _)
  · rw [evWord, selector_codes hsel, Nat.div_add_mod']

/-- The encoder writes the EV word of the event that selects the operation. -/
theorem encode_decoderInstr {c : Config} {ds : DState} {d : Direction} {t : Nat} {op : DecoderOp}
    (h : TableRow c ds d t op ∨ op = .mismatch) : encode c (decoderInstr ds d t op) = ⟨.ev, evWord c ds d t⟩ := by
  rcases h with h | rfl
  · cases op with
    | mismatch => exact h.elim
    | ldrArm =>
      obtain ⟨rfl, rfl⟩ := h
      rfl
    | _ =>
      obtain ⟨rfl, rfl, -⟩ := h
      rfl
  · rfl

/-- The selected operation is well-formed where the interval fits: its window has just been tested. -/
theorem wellFormed_selected {c : Config} (ds : DState) (d : Direction) {t : Nat} (ht : intervalFits c t = true) :
    wellFormed c (decoderInstr ds d t (selectDecoderOp c ds d t)) = true := by
  have hsel := tableRow_or_mismatch c ds d t
  generalize hop : selectDecoderOp c ds d t = op at hsel
  rcases hsel with hrow | rfl
  · cases op with
    | mismatch => exact hrow.elim
    | ldrArm => exact ht
    | _ =>
      obtain ⟨-, -, hwin⟩ := hrow
      exact Bool.and_eq_true_iff.mpr ⟨ht, (inwin_iff _ _ _).mpr hwin⟩
  · simp [decoderInstr, wellFormed, ht, hop]

/-- Settles O3: the word is the EV word of the event it was read as. -/
theorem evWordsHaveOneMeaning : Obligations.EvWordsHaveOneMeaning := by
  intro c w i h
  obtain ⟨ds, d, t, -, rfl, rfl⟩ := decodeEv_ok h
  exact encode_decoderInstr (tableRow_or_mismatch c ds d t)

/-! ### Event words and MS words -/

theorem wellFormed_selectEvent {c : Config} {rst tickEn trans : Bool} {d armed : Direction} {i : Instr}
    (h : selectEvent rst tickEn trans d armed = .ok i) : wellFormed c i = true := by
  unfold selectEvent at h
  split_ifs at h <;> cases h <;> rfl

theorem wellFormed_selectMainOp (c : Config) (m : MState) (ready isRelearn isAllOff timing : Bool) :
    wellFormed c (selectMainOp m ready isRelearn isAllOff timing) = true := by
  cases m with
  | learnWait =>
    simp only [selectMainOp]
    split_ifs <;> rfl
  | learnHold =>
    simp only [selectMainOp]
    split_ifs <;> rfl
  | normal =>
    simp only [selectMainOp]
    split_ifs <;> rfl
  | _ => rfl

/-- Whatever the MS decoder answers is the main loop's selection for some state and conditions. -/
theorem decodeMs_ok {w : Nat} {i : Instr} (h : decodeMs w = .ok i) :
    ∃ m, mstateOf (w % 8) = some m ∧
      i = selectMainOp m (w.testBit 3) (w.testBit 4) (w.testBit 5) (w.testBit 6) := by
  unfold decodeMs at h
  split_ifs at h
  split at h
  · rename_i m hm
    cases h
    exact ⟨m, hm, rfl⟩
  · cases h

/-- Whatever the event decoder answers is the selection for the word's port condition. -/
theorem decodeEvent_ok {w : Nat} {i : Instr} (h : decodeEvent w = .ok i) :
    selectEvent (w.testBit 4) (w.testBit 0) (w.testBit 1) (dirOf (w.testBit 2)) (dirOf (w.testBit 3)) = .ok i := by
  unfold decodeEvent at h
  split_ifs at h
  exact h

/-- A decoded operation is well-formed, whatever the word. -/
theorem wellFormed_of_decode {c : Config} {x : Selector} {i : Instr} (h : decode c x = .ok i) :
    wellFormed c i = true := by
  obtain ⟨fmt, w⟩ := x
  cases fmt with
  | event => exact wellFormed_selectEvent (decodeEvent_ok h)
  | ev =>
    obtain ⟨ds, d, t, hfits, -, rfl⟩ := decodeEv_ok h
    exact wellFormed_selected ds d hfits
  | ms =>
    obtain ⟨m, -, rfl⟩ := decodeMs_ok h
    exact wellFormed_selectMainOp c m _ _ _ _

/-- Settles O2, format by format. -/
theorem decodedOperationsAreWellFormed : Obligations.DecodedOperationsAreWellFormed :=
  fun _ _ _ h => wellFormed_of_decode h

/-! ### The round trip -/

/-- The EV word of an event whose row holds decodes to the row's operation. -/
theorem decode_evWord_of_tableRow {c : Config} {ds : DState} {d : Direction} {t : Nat} {op : DecoderOp} (hv : c.valid)
    (ht : intervalFits c t = true) (hrow : TableRow c ds d t op) :
    decode c ⟨.ev, evWord c ds d t⟩ = .ok (decoderInstr ds d t op) :=
  select_of_tableRow hv hrow ▸ decodeEv_evWord c ds d ht

/-- The same from the well-formedness of an operation with a window: an interval that fits and lies in it. -/
theorem decode_evWord_of_window {c : Config} {ds : DState} {d : Direction} {t : Nat} {op : DecoderOp} {win : WindowName}
    (hv : c.valid) (hwf : (intervalFits c t && inwin c t win) = true)
    (hrow : (window c win).min ≤ t ∧ t ≤ (window c win).max → TableRow c ds d t op) :
    decode c ⟨.ev, evWord c ds d t⟩ = .ok (decoderInstr ds d t op) := by
  rw [Bool.and_eq_true_iff, inwin_iff] at hwf
  exact decode_evWord_of_tableRow hv hwf.1 (hrow hwf.2)

/-- Settles O1: the event and MS words hold exactly the condition of their row; a decoder operation's EV word holds the
event that makes its row true. -/
theorem decodeEncodeRoundTrip : Obligations.DecodeEncodeRoundTrip := by
  intro c i hv hwf
  cases i with
  | tick => exact decodeEvent_eventWord _ _ _ _ _
  | reset => exact decodeEvent_eventWord _ _ _ _ _
  | edge d tickInside =>
    exact (decodeEvent_eventWord _ _ _ _ _).trans (by simp [selectEvent])
  | edgeIgnored d =>
    exact (decodeEvent_eventWord _ _ _ _ _).trans (by cases d <;> rfl)
  | ldrArm t => exact decode_evWord_of_tableRow (op := .ldrArm) hv hwf ⟨rfl, rfl⟩
  | ldrMark t => exact decode_evWord_of_window (op := .ldrMark) hv hwf fun hwin => ⟨rfl, rfl, hwin⟩
  | ldrSpace t => exact decode_evWord_of_window (op := .ldrSpace) hv hwf fun hwin => ⟨rfl, rfl, hwin⟩
  | rptSpace t => exact decode_evWord_of_window (op := .rptSpace) hv hwf fun hwin => ⟨rfl, rfl, hwin⟩
  | bitMark t => exact decode_evWord_of_window (op := .bitMark) hv hwf fun hwin => ⟨rfl, rfl, hwin⟩
  | bitZero t => exact decode_evWord_of_window (op := .bitZero) hv hwf fun hwin => ⟨rfl, rfl, hwin⟩
  | bitOne t => exact decode_evWord_of_window (op := .bitOne) hv hwf fun hwin => ⟨rfl, rfl, hwin⟩
  | stopMark t => exact decode_evWord_of_window (op := .stopMark) hv hwf fun hwin => ⟨rfl, rfl, hwin⟩
  | mismatch ds d t =>
    obtain ⟨hfits, hsel⟩ := Bool.and_eq_true_iff.mp hwf
    have hdec := decodeEv_evWord c ds d hfits
    rwa [of_decide_eq_true hsel] at hdec
  | _ => simp [decode, encode, decodeMs_msWord, selectMainOp]

/-- Settles O4: each word is written out, so the decoder computes its answer. -/
theorem specSelectorWordsDecode : Obligations.SpecSelectorWordsDecode := by
  unfold Obligations.SpecSelectorWordsDecode
  decide

/-! ## What operations leave and write

What an operation leaves and keeps, in the form the statements about whole steps use: `Frame` as a statement
about registers, the decoder's operations as one function of the state, the outcomes of the operations that the
earlier parts do not cover, and the registers that a decoder operation and a main-loop step keep. -/

/-! ### `Frame`, register by register -/

/-- The register keeps its value. -/
def Reg.Same (s t : State) : Reg → Prop
  | .tick => t.tick = s.tick
  | .frame => t.frame = s.frame
  | .bitIndex => t.bitIndex = s.bitIndex
  | .fAddr => t.fAddr = s.fAddr
  | .fAddrN => t.fAddrN = s.fAddrN
  | .fCmd => t.fCmd = s.fCmd
  | .fCmdN => t.fCmdN = s.fCmdN
  | .keyMap => t.keyMap = s.keyMap
  | .ch => t.ch = s.ch
  | .dstate => t.dstate = s.dstate
  | .mstate => t.mstate = s.mstate
  | .lidx => t.lidx = s.lidx
  | .ready => t.ready = s.ready
  | .armed => t.armed = s.armed
  | .statusMode => t.statusMode = s.statusMode
  | .blinkPhase => t.blinkPhase = s.blinkPhase
  | .ltimer => t.ltimer = s.ltimer
  | .irPrev => t.irPrev = s.irPrev

theorem Reg.Same.trans {s t u : State} {r : Reg} (hst : r.Same s t) (htu : r.Same t u) : r.Same s u := by
  cases r <;> exact Eq.trans htu hst

theorem frame_iff {changed : List Reg} {s t : State} :
    Frame changed s t ↔ (∀ r ∉ changed, r.Same s t) ∧ t.cfg = s.cfg ∧ t.pending = s.pending := by
  constructor
  · rintro ⟨h1, h2, h3, h4, h5, h6, h7, h8, h9, h10, h11, h12, h13, h14, h15, h16, h17, h18, hcfg, hpending⟩
    refine ⟨fun r hr => ?_, hcfg, hpending⟩
    cases r <;> simp_all only [Reg.Same, not_false_eq_true, true_implies]
  · rintro ⟨h, hcfg, hpending⟩
    exact ⟨h .tick, h .frame, h .bitIndex, h .fAddr, h .fAddrN, h .fCmd, h .fCmdN, h .keyMap, h .ch, h .dstate,
      h .mstate, h .lidx, h .ready, h .armed, h .statusMode, h .blinkPhase, h .ltimer, h .irPrev, hcfg, hpending⟩

section FrameRules

variable {changed changed' : List Reg} {s t u : State}

theorem Frame.same (h : Frame changed s t) (r : Reg) (hr : r ∉ changed) : r.Same s t := (frame_iff.mp h).1 r hr

theorem Frame.cfg_eq (h : Frame changed s t) : t.cfg = s.cfg := (frame_iff.mp h).2.1

theorem Frame.pending_eq (h : Frame changed s t) : t.pending = s.pending := (frame_iff.mp h).2.2

theorem Frame.mono (h : Frame changed s t) (hsub : changed ⊆ changed') : Frame changed' s t :=
  frame_iff.mpr ⟨fun r hr => h.same r fun hmem => hr (hsub hmem), h.cfg_eq, h.pending_eq⟩

theorem Frame.trans (hst : Frame changed s t) (htu : Frame changed t u) : Frame changed s u :=
  frame_iff.mpr ⟨fun r hr => (hst.same r hr).trans (htu.same r hr), htu.cfg_eq.trans hst.cfg_eq,
    htu.pending_eq.trans hst.pending_eq⟩

end FrameRules

/-! ### The decoder's operations as one function -/

/-- The state each of the nine decoder operations leaves (41 R111 to R120). -/
def decoderEffect : DecoderOp → State → State
  | .ldrArm, s => { s with armed := .rising }
  | .ldrMark, s => { s with dstate := .awaitLeaderLow, armed := .falling }
  | .ldrSpace, s => { s with dstate := .receivingData, armed := .rising, bitIndex := 0 }
  | .rptSpace, s => s
  | .bitMark, s => { s with armed := .falling }
  | .bitZero, s => shiftIn false s
  | .bitOne, s => shiftIn true s
  | .stopMark, s => decoderReset { s with ready := readyAfterStop s.ready s.fAddr s.fAddrN s.fCmd s.fCmdN }
  | .mismatch, s => decoderReset s

theorem exec_rptSpace (t : Nat) (s : State) : exec (.rptSpace t) s = .next s := rfl

/-- A decoder operation completes from every state, and its operands do not matter to it. -/
theorem exec_decoderInstr (ds : DState) (d : Direction) (t : Nat) (op : DecoderOp) (s : State) :
    exec (decoderInstr ds d t op) s = .next (decoderEffect op s) := by
  cases op with
  | stopMark => exact exec_stopMark t s
  | _ => rfl

/-- The registers a decoder operation may write (41 R110). -/
def decoderRegs : List Reg := [.dstate, .armed, .frame, .bitIndex, .fAddr, .fAddrN, .fCmd, .fCmdN, .ready]

theorem frame_decoderEffect (op : DecoderOp) (s : State) : Frame decoderRegs s (decoderEffect op s) := by
  cases op with
  | ldrArm => exact (frame_armed s _).mono (by decide)
  | ldrMark => exact (frame_dstate_armed s _ _).mono (by decide)
  | ldrSpace => exact (frame_dstate_armed_bitIndex s _ _ _).mono (by decide)
  | rptSpace => exact (frame_refl s).mono (by decide)
  | bitMark => exact (frame_armed s _).mono (by decide)
  | bitZero => exact (frame_shiftIn false s).mono (by decide)
  | bitOne => exact (frame_shiftIn true s).mono (by decide)
  | stopMark => exact (frame_decoderReset_ready s _).mono (by decide)
  | mismatch => exact (frame_decoderReset s).mono (by decide)

@[simp] theorem decoderEffect_store (op : DecoderOp) (s : State) : (decoderEffect op s).store = s.store := by
  cases op <;> rfl

section Kept

variable (op : DecoderOp) (s : State)

@[simp] theorem decoderEffect_cfg : (decoderEffect op s).cfg = s.cfg := (frame_decoderEffect op s).cfg_eq
@[simp] theorem decoderEffect_pending : (decoderEffect op s).pending = s.pending :=
  (frame_decoderEffect op s).pending_eq
@[simp] theorem decoderEffect_tick : (decoderEffect op s).tick = s.tick :=
  (frame_decoderEffect op s).same .tick (by decide)
@[simp] theorem decoderEffect_ltimer : (decoderEffect op s).ltimer = s.ltimer :=
  (frame_decoderEffect op s).same .ltimer (by decide)
@[simp] theorem decoderEffect_irPrev : (decoderEffect op s).irPrev = s.irPrev :=
  (frame_decoderEffect op s).same .irPrev (by decide)
@[simp] theorem decoderEffect_lidx : (decoderEffect op s).lidx = s.lidx :=
  (frame_decoderEffect op s).same .lidx (by decide)

end Kept

/-- A decoder operation never clears `ready` (10_state R29). -/
theorem decoderEffect_keeps_ready (op : DecoderOp) {s : State} (h : s.ready = true) :
    (decoderEffect op s).ready = true := by
  cases op with
  | stopMark =>
    show readyAfterStop _ _ _ _ _ = true
    simp [readyAfterStop, h]
  | _ => exact h

/-- A decoder operation reads neither the two counters nor the line level nor the coming events. -/
theorem decoderEffect_with (op : DecoderOp) (s : State) (n l : Nat) (b : Bool) (p : List Event) :
    decoderEffect op { s with tick := n, irPrev := b, ltimer := l, pending := p } =
      { decoderEffect op s with tick := n, irPrev := b, ltimer := l, pending := p } := by
  cases op <;> rfl

/-- The state `EDGE` of direction `d` hands to the decoder (40 R101, R103 (iii)). -/
def State.captured (s : State) (d : Direction) (tickInside : Bool) : State :=
  { s with tick := 0, irPrev := levelAfter d, ltimer := if tickInside then s.ltimer - 1 else s.ltimer }

/-- The operation the window table selects for the armed polarity and the counter (30_encoding R78). -/
def State.decoderOp (s : State) : DecoderOp := selectDecoderOp s.cfg s.dstate s.armed s.tick

theorem runDecoder_eq (d : Direction) (t : Nat) (s : State) :
    runDecoder d t s = exec (decoderInstr s.dstate d t (selectDecoderOp s.cfg s.dstate d t)) s := by
  unfold runDecoder
  cases selectDecoderOp s.cfg s.dstate d t <;> rfl

/-- `EDGE` is the selected decoder operation in the state it hands over. -/
theorem exec_edge_eq_exec (d : Direction) (tickInside : Bool) (s : State) :
    exec (.edge d tickInside) s =
      exec (decoderInstr s.dstate s.armed s.tick s.decoderOp) (s.captured d tickInside) :=
  (execEdge_eq d tickInside s).trans (runDecoder_eq _ _ _)

/-- `EDGE` completes from every state (40 R101). -/
theorem exec_edge (d : Direction) (tickInside : Bool) (s : State) :
    exec (.edge d tickInside) s = .next (decoderEffect s.decoderOp (s.captured d tickInside)) := by
  rw [exec_edge_eq_exec, exec_decoderInstr]

/-- The registers `EDGE` may write. -/
def edgeRegs : List Reg := .tick :: .irPrev :: .ltimer :: decoderRegs

theorem frame_captured (s : State) (d : Direction) (tickInside : Bool) :
    Frame edgeRegs s (s.captured d tickInside) := by
  simp [Frame, edgeRegs, State.captured]

theorem frame_edge (op : DecoderOp) (s : State) (d : Direction) (tickInside : Bool) :
    Frame edgeRegs s (decoderEffect op (s.captured d tickInside)) :=
  (frame_captured s d tickInside).trans ((frame_decoderEffect op _).mono (by decide))

/-! ### The other operations' outcomes -/

section Outcomes

variable (s : State)

theorem exec_edgeIgnored (d : Direction) : exec (.edgeIgnored d) s = .next { s with irPrev := levelAfter d } := rfl

theorem exec_reset : exec .reset s = .next (State.resetWith s.cfg s.store s.pending) := rfl

/-- The state `LEARN_STORE` leaves where slot `lidx` + 1 exists (42 R134). -/
def State.learned : State :=
  { s with
    keyMap := s.keyMap.set s.lidx s.fCmd
    statusMode := .solid
    ltimer := s.cfg.confirmTicks
    mstate := .learnHold
    store := memWrite s.store (slotOf s.lidx) s.fCmd }

theorem exec_learnStore_of_lt (h : s.lidx < s.cfg.k) : exec .learnStore s = .next s.learned := by
  have hslot : slotOf s.lidx ≤ s.cfg.k := h
  simp [exec, execLearnStore, State.learned, hslot]

theorem exec_learnStore_of_ge (h : s.cfg.k ≤ s.lidx) : exec .learnStore s = .fault (.noSuchSlot (slotOf s.lidx)) := by
  have hslot : ¬ slotOf s.lidx ≤ s.cfg.k := Nat.not_le.mpr (Nat.lt_succ_of_le h)
  simp [exec, execLearnStore, writeSlot, hslot]

theorem exec_learnCommit :
    exec .learnCommit s =
      .next { s with
        statusMode := .solid, mstate := .normal, store := memWrite s.store sentinelSlot Config.sentInit } :=
  congrArg ofWrite (writeSlot_ok.mpr ⟨Nat.zero_le _, rfl⟩)

theorem frame_irPrev (b : Bool) : Frame [.irPrev] s { s with irPrev := b } := by
  simp [Frame]

theorem frame_learned : Frame [.keyMap, .statusMode, .ltimer, .mstate] s s.learned := by
  simp [Frame, State.learned]

theorem frame_statusMode_mstate (sm : StatusMode) (m : MState) (mem : Memory) :
    Frame [.statusMode, .mstate] s { s with statusMode := sm, mstate := m, store := mem } := by
  simp [Frame]

end Outcomes

/-- The registers of the main loop (10_state R37). -/
def mainRegs : List Reg := [.keyMap, .ch, .mstate, .lidx, .ready, .statusMode, .blinkPhase, .ltimer]

theorem frame_of_mainStep {s t : State} (h : MainStep s t) : Frame mainRegs s t := by
  cases h <;> simp [Frame, mainRegs]

/-! ### What an operation writes -/

theorem applyAccesses_reads (slots : List Nat) (m : Memory) : applyAccesses (slots.map .read) m = m := by
  induction slots with
  | nil => rfl
  | cons a slots ih => exact ih

/-- Slots that a sequence of accesses does not write read as before. -/
theorem memRead_applyAccesses (accesses : List PortAccess) (m : Memory) {a : Nat} (ha : a ∉ writtenSlots accesses) :
    memRead (applyAccesses accesses m) a = memRead m a := by
  induction accesses generalizing m with
  | nil => rfl
  | cons access rest ih =>
    cases access with
    | read b => exact ih m ha
    | write b v =>
      simp only [writtenSlots, List.mem_cons, not_or] at ha
      obtain ⟨hab, hrest⟩ := ha
      exact (ih _ hrest).trans (memRead_memWrite_ne m v hab)

/-- The registers an operation may write and the accesses its store port shows, for one outcome of it. -/
def Explained (i : Instr) (s t : State) : Prop :=
  Frame (mayWrite i) s t ∧ t.store = applyAccesses (storePort s i) s.store

theorem explained_of_exec_eq {i : Instr} {s t u : State} (he : exec i s = .next u) (hu : Explained i s u)
    (h : exec i s = .next t) : Explained i s t := by
  cases he.symm.trans h
  exact hu

/-- Every operation that completes writes the registers its rule names (10_state R37) and makes its store accesses. -/
theorem exec_explained {i : Instr} {s t : State} (h : exec i s = .next t) : Explained i s t := by
  cases i with
  | tick => exact explained_of_exec_eq (exec_tick s) ⟨frame_counters s _ _, rfl⟩ h
  | edge d tickInside =>
    refine explained_of_exec_eq (exec_edge d tickInside s) ⟨(frame_edge _ s d tickInside).mono ?_, ?_⟩ h
    · simp [edgeRegs, decoderRegs, mayWrite]
    · exact decoderEffect_store _ _
  | edgeIgnored d => exact explained_of_exec_eq (exec_edgeIgnored s d) ⟨frame_irPrev s _, rfl⟩ h
  | reset => exact explained_of_exec_eq (exec_reset s) ⟨by simp [Frame, mayWrite], rfl⟩ h
  | ldrArm n => exact explained_of_exec_eq (exec_ldrArm n s) ⟨frame_armed s _, rfl⟩ h
  | ldrMark n => exact explained_of_exec_eq (exec_ldrMark n s) ⟨frame_dstate_armed s _ _, rfl⟩ h
  | ldrSpace n => exact explained_of_exec_eq (exec_ldrSpace n s) ⟨frame_dstate_armed_bitIndex s _ _ _, rfl⟩ h
  | rptSpace n => exact explained_of_exec_eq (exec_rptSpace n s) ⟨frame_refl s, rfl⟩ h
  | bitMark n => exact explained_of_exec_eq (exec_bitMark n s) ⟨frame_armed s _, rfl⟩ h
  | bitZero n => exact explained_of_exec_eq (exec_bitZero n s) ⟨frame_shiftIn false s, rfl⟩ h
  | bitOne n => exact explained_of_exec_eq (exec_bitOne n s) ⟨frame_shiftIn true s, rfl⟩ h
  | stopMark n => exact explained_of_exec_eq (exec_stopMark n s) ⟨frame_decoderReset_ready s _, rfl⟩ h
  | mismatch ds d n => exact explained_of_exec_eq (exec_mismatch n s ds d) ⟨frame_decoderReset s, rfl⟩ h
  | bootSelect =>
    exact explained_of_exec_eq (exec_bootSelect s) ⟨(frame_lidx_mstate s _ _).mono (by decide), rfl⟩ h
  | keyLoad =>
    refine explained_of_exec_eq (exec_keyLoad s) ⟨frame_keyMap_statusMode_mstate s _ _ _, ?_⟩ h
    have hreads : storePort s .keyLoad = ((List.range s.cfg.k).map slotOf).map .read := List.map_map.symm
    rw [hreads, applyAccesses_reads]
  | learnBegin => exact explained_of_exec_eq (exec_learnBegin s) ⟨frame_indicatorBlink s _ _ _ _ _, rfl⟩ h
  | learnStore =>
    rcases Nat.lt_or_ge s.lidx s.cfg.k with hlt | hge
    · exact explained_of_exec_eq (exec_learnStore_of_lt s hlt) ⟨frame_learned s, rfl⟩ h
    · cases (exec_learnStore_of_ge s hge).symm.trans h
  | learnWait => exact explained_of_exec_eq (exec_learnWait s) ⟨frame_blinkPhase_ltimer s _ _, rfl⟩ h
  | learnHold => exact explained_of_exec_eq (exec_learnHold s) ⟨frame_refl s, rfl⟩ h
  | learnNext => exact explained_of_exec_eq (exec_learnNext s) ⟨frame_ch_ready_lidx_mstate s _ _ _ _, rfl⟩ h
  | learnCommit => exact explained_of_exec_eq (exec_learnCommit s) ⟨frame_statusMode_mstate s _ _ _, rfl⟩ h
  | pollIdle => exact explained_of_exec_eq (exec_pollIdle s) ⟨frame_refl s, rfl⟩ h
  | relearn => exact explained_of_exec_eq (exec_relearn s) ⟨frame_ready_lidx_mstate s _ _ _, rfl⟩ h
  | allOff => exact explained_of_exec_eq (exec_allOff s) ⟨frame_ch_ready s _ _, rfl⟩ h
  | dispatch => exact explained_of_exec_eq (exec_dispatch s) ⟨frame_ch_ready s _ _, rfl⟩ h

/-- Settles O28. -/
theorem storePortExplainsStore : Obligations.StorePortExplainsStore := fun _ _ _ h => (exec_explained h).2

/-- Settles O23: the slots follow from the accesses that explain the store. -/
theorem operationsWriteOnlyTheirRegisters : Obligations.OperationsWriteOnlyTheirRegisters := by
  intro i s t h
  obtain ⟨hframe, hstore⟩ := exec_explained h
  refine ⟨hframe, fun a ha => ?_⟩
  rw [hstore]
  exact memRead_applyAccesses _ _ ha

/-! ### Where an operation stops -/

/-- Every operation completes but `LEARN_STORE` with `lidx` at or above K, which faults; none is refused (60 R163). -/
theorem exec_completes_or_faults (i : Instr) (s : State) :
    (∃ t, exec i s = .next t) ∨ i = .learnStore ∧ s.cfg.k ≤ s.lidx := by
  cases i with
  | edge d tickInside => exact .inl ⟨_, exec_edge d tickInside s⟩
  | stopMark t => exact .inl ⟨_, exec_stopMark t s⟩
  | bootSelect => exact .inl ⟨_, exec_bootSelect s⟩
  | learnWait => exact .inl ⟨_, exec_learnWait s⟩
  | learnNext => exact .inl ⟨_, exec_learnNext s⟩
  | learnCommit => exact .inl ⟨_, exec_learnCommit s⟩
  | learnStore =>
    rcases Nat.lt_or_ge s.lidx s.cfg.k with h | h
    · exact .inl ⟨_, exec_learnStore_of_lt s h⟩
    · exact .inr ⟨rfl, h⟩
  | _ => exact .inl ⟨_, rfl⟩

theorem exec_completes {s : State} (h : s.lidx < s.cfg.k) (i : Instr) : ∃ t, exec i s = .next t :=
  (exec_completes_or_faults i s).resolve_right fun ⟨_, hge⟩ => absurd h (Nat.not_lt.mpr hge)

theorem exec_ne_refused (i : Instr) (s : State) (r : Refusal) : exec i s ≠ .refused r := by
  rcases exec_completes_or_faults i s with ⟨t, ht⟩ | ⟨rfl, hge⟩
  · simp [ht]
  · simp [exec_learnStore_of_ge s hge]

/-! ## Steps and short runs

One step and runs of a few: which operation the first pending event selects (30_encoding R79, R80), that every
step of a well-formed state completes, a train of ticks, a tick beside an edge (40 R103), one clock (40 R104), and the
level of the line (10_state R33). -/

/-! ### The operation of the next step -/

section Rows

variable {s : State} {rest : List Event}

/-- A step whose atomic step and remaining events are known. -/
theorem step_of_nextAtom {a : Atom} {i : Instr} (hv : s.cfg.valid) (ha : nextAtom s = (a, rest))
    (hd : decode s.cfg (selectorWord s a) = .ok i) : step s = exec i { s with pending := rest } := by
  have hstep := step_eq_exec (s := s) (i := i) hv
  rw [ha] at hstep
  exact hstep hd

/-- A step on an event that is no repeat, by its expansion. -/
theorem step_of_expand {e : Event} {a : Atom} {more : List Event} {i : Instr} (hv : s.cfg.valid)
    (hp : s.pending = e :: rest) (he : s.repeats e = false) (hx : expand s e = (a, more))
    (hd : decode s.cfg (selectorWord s a) = .ok i) : step s = exec i { s with pending := more ++ rest } :=
  step_of_nextAtom hv ((nextAtom_of_cons hp he).trans (by rw [hx])) hd

theorem step_on_tick (hv : s.cfg.valid) (hp : s.pending = .tick :: rest) :
    step s = exec .tick { s with pending := rest } :=
  step_of_expand hv hp rfl rfl (decode_tick s)

theorem step_on_reset (hv : s.cfg.valid) (hp : s.pending = .reset :: rest) :
    step s = exec .reset { s with pending := rest } :=
  step_of_expand hv hp rfl rfl (decode_reset s)

theorem step_on_main (hv : s.cfg.valid) (hp : s.pending = .main :: rest) :
    step s = exec s.mainOp { s with pending := rest } :=
  step_of_expand hv hp rfl rfl (decode_main s)

theorem decode_edge_of_armed {d : Direction} (hd : d = s.armed) (tickInside : Bool) :
    decode s.cfg (selectorWord s (.edge d tickInside)) = .ok (.edge d tickInside) :=
  hd ▸ decode_edge_armed s tickInside

/-- A transition of the armed polarity that changes the level is captured. -/
theorem step_on_captured {d : Direction} (hv : s.cfg.valid) (hp : s.pending = .line d :: rest) (hd : d = s.armed)
    (hlevel : levelAfter d ≠ s.irPrev) : step s = exec (.edge d false) { s with pending := rest } := by
  have hrep : s.repeats (.line d) = false := by
    rw [Bool.eq_false_iff, Ne, repeats_line]
    exact fun h => hlevel h.2
  exact step_of_expand hv hp hrep rfl (decode_edge_of_armed hd false)

/-- A transition of the other polarity is ignored. -/
theorem step_on_ignored {d : Direction} (hv : s.cfg.valid) (hp : s.pending = .line d :: rest) (hd : d ≠ s.armed) :
    step s = exec (.edgeIgnored d) { s with pending := rest } := by
  have hrep : s.repeats (.line d) = false := by
    rw [Bool.eq_false_iff, Ne, repeats_line]
    exact fun h => hd h.1
  exact step_of_expand hv hp hrep rfl (decode_edge_unarmed s hd)

/-- A transition that changes the level is no repeat. -/
theorem expand_together_of_captured {d : Direction} (hd : d = s.armed) (hlevel : levelAfter d ≠ s.irPrev)
    (o : TickOutcome) :
    expand s (.together d o) =
      match o with
      | .tickFirst => (.tick, [.line d])
      | .edgeFirst => (.edge d false, [.tick])
      | .tickLost => (.edge d true, []) := by
  have hrep : ¬ s.repeats (.line d) = true := fun h => hlevel (repeats_line.mp h).2
  cases o <;> simp only [expand, if_neg hrep, if_pos hd]

end Rows

/-- Settles O8: decoding is well-formed by O2's lemma, and the step is `exec` of what it reads. -/
theorem stepRunsDecodedOperation : Obligations.StepRunsDecodedOperation :=
  fun _ _ hv hd => ⟨wellFormed_of_decode hd, step_eq_exec hv hd⟩

/-- Settles O10: the selector word of each atomic step decodes to its row of R80. -/
theorem eventRowsSelectTheirOperation : Obligations.EventRowsSelectTheirOperation := by
  intro s hv
  dsimp only
  have hstep : ∀ {a i}, (nextAtom s).1 = a → decode s.cfg (selectorWord s a) = .ok i →
      step s = exec i { s with pending := (nextAtom s).2 } := fun ha hd => step_eq_exec hv (ha ▸ hd)
  cases ha : (nextAtom s).1 with
  | tick => exact hstep ha (decode_tick s)
  | reset => exact hstep ha (decode_reset s)
  | main => trivial
  | edge d tickInside =>
    dsimp only
    split_ifs with hd
    · subst hd
      exact hstep ha (decode_edge_armed s tickInside)
    · cases tickInside with
      | true => exact absurd (armed_of_tickInside ha) hd
      | false => exact hstep ha (decode_edge_unarmed s hd)

/-- Settles O11: the main loop's word decodes to `mainOp`, whose rows the statement lists. -/
theorem mainStepRunsTableRow : Obligations.MainStepRunsTableRow := by
  intro s hv ha
  rw [step_eq_exec hv (ha ▸ decode_main s)]
  congr 1
  cases hm : s.mstate with
  | boot => exact mainOp_of_boot hm
  | load => exact mainOp_of_load hm
  | learnBegin => exact mainOp_of_learnBegin hm
  | learnWait => exact mainOp_of_learnWait hm
  | learnHold =>
    rw [mainOp_of_learnHold hm]
    exact (ite_not _ _ _).symm
  | commit => exact mainOp_of_commit hm
  | normal => exact mainOp_of_normal hm

/-! ### What a step stops at -/

/-- A step of a valid configuration is `exec` of some operation. -/
theorem exists_step_eq_exec {s : State} (hv : s.cfg.valid) :
    ∃ i, step s = exec i { s with pending := (nextAtom s).2 } := by
  obtain ⟨i, hi⟩ := decode_nextAtom s
  exact ⟨i, step_eq_exec hv hi⟩

theorem step_completes {s : State} (hv : s.cfg.valid) (hlidx : s.lidx < s.cfg.k) : ∃ t, step s = .next t := by
  obtain ⟨i, hi⟩ := exists_step_eq_exec hv
  exact hi ▸ exec_completes (s := { s with pending := (nextAtom s).2 }) hlidx i

theorem step_of_invalid {s : State} (hv : ¬ s.cfg.valid) : step s = .refused .badConfig := by
  simp only [step, fetch, if_neg hv]

/-- Settles O12: only `lidx` at or above K could stop a step of a valid configuration. -/
theorem wellFormedStepsComplete : Obligations.WellFormedStepsComplete := by
  rintro s ⟨hv, -, -, hlidx, -⟩
  exact step_completes hv hlidx

/-- Settles O13: in a valid configuration the step is an `exec`, which refuses nothing. -/
theorem refusedStepsAreNamed : Obligations.RefusedStepsAreNamed := by
  refine fun s => ⟨step_of_invalid, fun r hr => ?_⟩
  by_cases hv : s.cfg.valid
  · obtain ⟨i, hi⟩ := exists_step_eq_exec hv
    exact absurd (hi.symm.trans hr) (exec_ne_refused i _ r)
  · rw [step_of_invalid hv] at hr
    cases hr
    exact ⟨rfl, hv⟩

/-! ### A train of ticks -/

/-- The state after `n` tick pulses, with `rest` left of the coming events. -/
def State.ticked (s : State) (n : Nat) (rest : List Event) : State :=
  { s with tick := (s.tick + n) % 2 ^ s.cfg.tickBits, ltimer := s.ltimer - n, pending := rest }

theorem ticked_zero {s : State} (ht : s.tick < 2 ^ s.cfg.tickBits) : s.ticked 0 s.pending = s := by
  simp [State.ticked, Nat.mod_eq_of_lt ht]

theorem ticked_ticked (s : State) (m n : Nat) (p rest : List Event) :
    (s.ticked m p).ticked n rest = s.ticked (m + n) rest := by
  simp [State.ticked, Nat.mod_add_mod, Nat.add_assoc, Nat.sub_sub]

theorem step_on_tick_eq {s : State} {rest : List Event} (hv : s.cfg.valid) (hp : s.pending = .tick :: rest) :
    step s = .next (s.ticked 1 rest) :=
  (step_on_tick hv hp).trans (exec_tick _)

/-- `n` tick pulses (00_scope R11). -/
theorem run_ticks {s : State} {n : Nat} {rest : List Event} (hv : s.cfg.valid) (ht : s.tick < 2 ^ s.cfg.tickBits)
    (hp : s.pending = List.replicate n .tick ++ rest) : runSteps n s = .next (s.ticked n rest) := by
  induction n generalizing s with
  | zero =>
    have hrest : s.pending = rest := hp
    rw [← hrest, ticked_zero ht, runSteps_zero]
  | succ n ih =>
    have hlt : (s.ticked 1 (List.replicate n .tick ++ rest)).tick < 2 ^ s.cfg.tickBits :=
      Nat.mod_lt _ (Nat.two_pow_pos _)
    have hp' : s.pending = .tick :: (List.replicate n .tick ++ rest) := hp
    rw [runSteps_succ_of_next n (step_on_tick_eq hv hp'), ih (s := s.ticked 1 _) hv hlt rfl, ticked_ticked,
      Nat.add_comm]

/-- Settles O14. -/
theorem pulseTrainCountsTicks : Obligations.PulseTrainCountsTicks := fun _ _ _ hv ht hp => run_ticks hv ht hp

/-! ### A tick beside a captured edge -/

/-- The counter has room for one tick: the leader window ends below its last value (00_scope R6). -/
theorem one_lt_two_pow_tickBits {c : Config} (hv : c.valid) : 1 < 2 ^ c.tickBits := by
  obtain ⟨-, -, -, -, hlh, -⟩ := hv
  omega

/-- A decoder operation's outcome with the counter at `n`, the edge's level recorded and one tick taken from
`ltimer`. -/
def State.coincided (s : State) (op : DecoderOp) (n : Nat) (rest : List Event) : State :=
  { decoderEffect op s with tick := n, irPrev := levelAfter s.armed, ltimer := s.ltimer - 1, pending := rest }

theorem frame_coincided (s : State) (op : DecoderOp) (n : Nat) (rest : List Event) :
    Frame [.tick, .ltimer, .irPrev] { decoderEffect op s with pending := rest } (s.coincided op n rest) := by
  simp [Frame, State.coincided]

section Coincidence

variable {s : State} {rest : List Event}

/-- Outcome (i): the tick is counted, then the edge is captured. -/
theorem run_tickFirst (hv : s.cfg.valid) (hlevel : levelAfter s.armed ≠ s.irPrev)
    (hp : s.pending = .together s.armed .tickFirst :: rest) :
    runSteps 2 s = .next
      (s.coincided (selectDecoderOp s.cfg s.dstate s.armed ((s.tick + 1) % 2 ^ s.cfg.tickBits)) 0 rest) := by
  have htick : step s = .next (s.ticked 1 (.line s.armed :: rest)) :=
    (step_of_expand hv hp rfl (expand_together_of_captured rfl hlevel .tickFirst) (decode_tick s)).trans (exec_tick _)
  rw [runSteps_succ_of_next 1 htick, runSteps_one,
    step_on_captured (s := s.ticked 1 (.line s.armed :: rest)) hv rfl rfl hlevel, exec_edge]
  exact congrArg _ (decoderEffect_with _ s 0 _ _ rest)

/-- Outcome (ii): the edge is captured, then the tick is counted from 0. -/
theorem run_edgeFirst (hv : s.cfg.valid) (hlevel : levelAfter s.armed ≠ s.irPrev)
    (hp : s.pending = .together s.armed .edgeFirst :: rest) :
    runSteps 2 s = .next (s.coincided s.decoderOp 1 rest) := by
  have hedge : step s = .next
      { decoderEffect s.decoderOp s with
        tick := 0, irPrev := levelAfter s.armed, ltimer := s.ltimer, pending := .tick :: rest } := by
    rw [step_of_expand hv hp rfl (expand_together_of_captured rfl hlevel .edgeFirst) (decode_edge_armed s false),
      exec_edge]
    exact congrArg _ (decoderEffect_with _ s 0 _ _ _)
  have hcfg := decoderEffect_cfg s.decoderOp s
  rw [runSteps_succ_of_next 1 hedge, runSteps_one, step_on_tick_eq (hcfg ▸ hv) rfl]
  have hone : (0 + 1) % 2 ^ (decoderEffect s.decoderOp s).cfg.tickBits = 1 :=
    Nat.mod_eq_of_lt (hcfg ▸ one_lt_two_pow_tickBits hv)
  simp only [State.ticked, State.coincided, hone]

theorem step_on_tickLost {d : Direction} (hv : s.cfg.valid) (hp : s.pending = .together d .tickLost :: rest)
    (hd : d = s.armed) (hlevel : levelAfter d ≠ s.irPrev) :
    step s = exec (.edge d true) { s with pending := rest } :=
  step_of_expand hv hp rfl (expand_together_of_captured hd hlevel .tickLost) (decode_edge_of_armed hd true)

/-- Outcome (iii): the tick is lost for the Timebase. -/
theorem run_tickLost (hv : s.cfg.valid) (hlevel : levelAfter s.armed ≠ s.irPrev)
    (hp : s.pending = .together s.armed .tickLost :: rest) :
    runSteps 1 s = .next (s.coincided s.decoderOp 0 rest) := by
  rw [runSteps_one, step_on_tickLost hv hp rfl hlevel, exec_edge]
  exact congrArg _ (decoderEffect_with _ s 0 _ _ rest)

end Coincidence

/-- Settles O15: in each outcome the run ends in the decoder operation's own state, but for the two counters and the
line level. -/
theorem coincidenceHasThreeOutcomes : Obligations.CoincidenceHasThreeOutcomes := by
  intro s o rest hv hlevel hp
  have hstore : ∀ op n, StoreFrame [] s (s.coincided op n rest) :=
    fun op n a _ => congrArg (memRead · a) (decoderEffect_store op s)
  cases o with
  | tickFirst =>
    exact ⟨_, _, exec_decoderInstr _ _ _ _ s, run_tickFirst hv hlevel hp, rfl, rfl, rfl, frame_coincided .., hstore _ _⟩
  | edgeFirst =>
    exact ⟨_, _, exec_decoderInstr _ _ _ _ s, run_edgeFirst hv hlevel hp, rfl, rfl, rfl, frame_coincided .., hstore _ _⟩
  | tickLost =>
    exact ⟨_, _, exec_decoderInstr _ _ _ _ s, run_tickLost hv hlevel hp, rfl, rfl, rfl, frame_coincided .., hstore _ _⟩

/-! ### One clock -/

section Clock

variable {s : State} {rest : List Event} {tickEn irIn : Bool}

theorem expand_clock_captured (hlevel : irIn ≠ s.irPrev) (hd : dirOf irIn = s.armed) :
    expand s (.clock false tickEn irIn) = (.edge (dirOf irIn) tickEn, [.main]) := by
  simp [expand, hlevel, hd]

theorem expand_clock_ignored (hlevel : irIn ≠ s.irPrev) (hd : dirOf irIn ≠ s.armed) :
    expand s (.clock false tickEn irIn) = (.edge (dirOf irIn) false, if tickEn then [.tick, .main] else [.main]) := by
  cases tickEn <;> simp [expand, hlevel, hd]

theorem expand_clock_still (hlevel : irIn = s.irPrev) :
    expand s (.clock false tickEn irIn) = if tickEn then (.tick, [.main]) else (.main, []) := by
  simp [expand, hlevel]

/-- Two operations one after the other, where the second step is known for every state the first can leave: one with
the configuration and the events that were left pending. -/
theorem runSteps_after_exec {i : Instr} {s0 : State} {n : Nat} {f : State → Result} (hs : step s = exec i s0)
    (hf : ∀ u : State, u.cfg = s0.cfg → u.pending = s0.pending → runSteps n u = f u) :
    runSteps (n + 1) s = andThen (exec i s0) f := by
  rw [runSteps_succ, hs]
  cases hi : exec i s0 with
  | next u =>
    obtain ⟨hframe, -⟩ := exec_explained hi
    exact hf u hframe.cfg_eq hframe.pending_eq
  | fault e => rfl
  | refused e => rfl

/-- The main loop's operation of a state, run with `rest` left pending. -/
def State.runMain (rest : List Event) (u : State) : Result := exec u.mainOp { u with pending := rest }

theorem runSteps_one_on_main (hv : s.cfg.valid) (hp : s.pending = .main :: rest) :
    runSteps 1 s = s.runMain rest :=
  (runSteps_one s).trans (step_on_main hv hp)

/-- An operation, then the main loop's step. -/
theorem runSteps_two_with_main {i : Instr} (hv : s.cfg.valid)
    (hs : step s = exec i { s with pending := .main :: rest }) :
    runSteps 2 s = andThen (exec i { s with pending := .main :: rest }) (State.runMain rest) :=
  runSteps_after_exec hs fun _ hcfg hp => runSteps_one_on_main (hcfg ▸ hv) hp

/-- Two ways to write one operation, a tick and the main loop's step. -/
theorem andThen_assoc (r : Result) (f g : State → Result) :
    andThen (andThen r f) g = andThen r fun u => andThen (f u) g := by
  cases r <;> rfl

end Clock

/-- Settles O16: the clock is expanded into the listed atomic steps, and each step leaves the next one pending. -/
theorem clockComposesAtomicSteps : Obligations.ClockComposesAtomicSteps := by
  intro s rst tickEn irIn rest hv hp
  dsimp only
  refine ⟨?_, ?_, ?_, ?_, ?_, ?_⟩
  · rintro rfl
    exact (runSteps_one s).trans (step_of_expand hv hp rfl rfl (decode_reset s))
  · rintro rfl hlevel hd
    exact runSteps_two_with_main hv
      (step_of_expand hv hp rfl (expand_clock_captured hlevel hd) (decode_edge_of_armed hd tickEn))
  · rintro rfl hlevel hd rfl
    rw [andThen_assoc]
    refine runSteps_after_exec
      (step_of_expand hv hp rfl (expand_clock_ignored hlevel hd) (decode_edge_unarmed s hd)) fun u hcfg hpu => ?_
    exact runSteps_two_with_main (hcfg ▸ hv) (step_on_tick (hcfg ▸ hv) hpu)
  · rintro rfl hlevel hd rfl
    exact runSteps_two_with_main hv
      (step_of_expand hv hp rfl (expand_clock_ignored hlevel hd) (decode_edge_unarmed s hd))
  · rintro rfl hlevel rfl
    exact runSteps_two_with_main hv (step_of_expand hv hp rfl (expand_clock_still hlevel) (decode_tick s))
  · rintro rfl hlevel rfl
    exact (runSteps_one s).trans (step_of_expand hv hp rfl (expand_clock_still hlevel) (decode_main s))

/-! ## Placed words and the level of the line

Placed words, ignored edges, reset and the level of the line: what the next step runs (log 10), and that
transitions alternate (10_state R33). -/

/-! ### Ignored edges and reset -/

theorem levelAfter_eq_decide (d : Direction) : levelAfter d = decide (d = .rising) := by
  cases d <;> rfl

/-- Settles O34. -/
theorem ignoredEdgeOnlyRecordsLevel : Obligations.IgnoredEdgeOnlyRecordsLevel := by
  intro s d
  exact ⟨fun hv hd ha => step_eq_exec hv (ha ▸ decode_edge_unarmed s hd), _, exec_edgeIgnored s d,
    levelAfter_eq_decide d, frame_irPrev s _, fun _ _ => rfl⟩

/-- Settles O35: RESET leaves the reset state of the machine's own configuration, store and events. -/
theorem resetLeavesListedValues : Obligations.ResetLeavesListedValues := by
  intro s
  refine ⟨fun tickEn irIn rest hv hp => step_of_expand hv hp rfl rfl (decode_reset s), _, exec_reset s, rfl, rfl, rfl,
    rfl, rfl, rfl, rfl, rfl, rfl, rfl, List.length_replicate, List.length_replicate, fun i hi => ?_, rfl, rfl, rfl, rfl,
    rfl, rfl, rfl, rfl, fun _ _ => rfl⟩
  exact ⟨List.getElem?_replicate_of_lt hi, List.getElem?_replicate_of_lt hi⟩

/-! ### Placed words -/

/-- A placed event word is what the next step runs: the line stands at the level before the transition (log 10). -/
theorem step_placeEvent {s : State} {w : Nat} {i : Instr} (hv : s.cfg.valid) (h : decodeEvent w = .ok i) :
    step (placeEvent s w) = exec i { placeEvent s w with pending := [] } := by
  have hsel := decodeEvent_ok h
  unfold placeEvent
  generalize w.testBit 4 = rst, w.testBit 0 = tickEn, w.testBit 1 = trans, dirOf (w.testBit 2) = d,
    dirOf (w.testBit 3) = armed at hsel ⊢
  have hlevel : levelAfter d ≠ !levelAfter d := by simp
  unfold selectEvent at hsel
  split_ifs at hsel with hrst htrans hd htick htick
  · cases hsel
    simp only [hrst, if_true]
    exact step_on_reset hv rfl
  · cases hsel
    simp only [hrst, htrans, if_true]
    cases tickEn with
    | true => exact step_on_tickLost hv rfl hd hlevel
    | false => exact step_on_captured hv rfl hd hlevel
  · cases hsel
    simp only [hrst, htrans, htick, if_true]
    exact step_on_ignored hv rfl hd
  · cases hsel
    simp only [hrst, htrans]
    exact step_on_tick hv rfl

theorem ordinaryCode_ne_relearnCode (c : Config) : ordinaryCode c ≠ c.relearnCode := by
  unfold ordinaryCode
  split_ifs with h
  · simp [h]
  · exact fun h' => h h'.symm

theorem ordinaryCode_ne_allOffCode (c : Config) : ordinaryCode c ≠ Config.allOffCode := by
  unfold ordinaryCode
  split_ifs <;> decide

/-- The all-off condition matters only where the re-learn condition, tested before it, fails (43 R150). -/
theorem selectMainOp_congr_allOff (m : MState) (ready isRelearn isAllOff isAllOff' timing : Bool)
    (h : isRelearn = false → isAllOff = isAllOff') :
    selectMainOp m ready isRelearn isAllOff timing = selectMainOp m ready isRelearn isAllOff' timing := by
  cases isRelearn with
  | false => rw [h rfl]
  | true => cases m <;> rfl

/-- The command code that stands for an MS word's two conditions on `f_cmd` (log 10). -/
def placedCode (c : Config) (isRelearn isAllOff : Bool) : Byte :=
  if isRelearn then c.relearnCode else if isAllOff then Config.allOffCode else ordinaryCode c

theorem placedCode_isRelearn {c : Config} (hv : c.valid) (isRelearn isAllOff : Bool) :
    (placedCode c isRelearn isAllOff == c.relearnCode) = isRelearn := by
  obtain ⟨-, -, -, -, -, hcodes, -, -⟩ := hv
  cases isRelearn <;> cases isAllOff <;> simp [placedCode, ordinaryCode_ne_relearnCode, hcodes.symm]

theorem placedCode_isAllOff (c : Config) (isAllOff : Bool) :
    (placedCode c false isAllOff == Config.allOffCode) = isAllOff := by
  cases isAllOff <;> simp [placedCode, ordinaryCode_ne_allOffCode]

/-- The conditions of a placed MS word select what the word's own bits select. -/
theorem selectMainOp_placed {c : Config} (hv : c.valid) (m : MState) (ready isRelearn isAllOff timing : Bool) :
    selectMainOp m ready (placedCode c isRelearn isAllOff == c.relearnCode)
        (placedCode c isRelearn isAllOff == Config.allOffCode) ((if timing then 1 else 0 : Nat) != 0) =
      selectMainOp m ready isRelearn isAllOff timing := by
  have htiming : ((if timing then 1 else 0 : Nat) != 0) = timing := by cases timing <;> rfl
  rw [placedCode_isRelearn hv, htiming]
  refine selectMainOp_congr_allOff _ _ _ _ _ _ ?_
  rintro rfl
  exact placedCode_isAllOff c isAllOff

/-- A placed MS word is what the next step runs. -/
theorem step_placeMs {s : State} {w : Nat} {i : Instr} (hv : s.cfg.valid) (h : decodeMs w = .ok i) :
    step (placeMs s w) = exec i { placeMs s w with pending := [] } := by
  obtain ⟨m, hm, rfl⟩ := decodeMs_ok h
  have hop : (placeMs s w).mainOp = selectMainOp m (w.testBit 3) (w.testBit 4) (w.testBit 5) (w.testBit 6) := by
    simp only [placeMs, hm]
    exact selectMainOp_placed hv m _ _ _ _
  have hpending : (placeMs s w).pending = [.main] := by simp only [placeMs, hm]
  have hcfg : (placeMs s w).cfg = s.cfg := by simp only [placeMs, hm]
  rw [← hop]
  exact step_on_main (hcfg ▸ hv) hpending

/-- A placed EV word is the decoder operation of the captured transition that the next step runs. -/
theorem step_placeEv {s : State} {w : Nat} {i : Instr} (hv : s.cfg.valid) (h : decodeEv s.cfg w = .ok i) :
    step (placeEv s w) =
      exec i { placeEv s w with tick := 0, irPrev := levelAfter (placeEv s w).armed, pending := [] } := by
  have hlevel : levelAfter (placeEv s w).armed ≠ !levelAfter (placeEv s w).armed := by simp
  rw [step_on_captured (s := placeEv s w) hv rfl rfl hlevel, exec_edge_eq_exec]
  simp only [decodeEv] at h
  split_ifs at h
  cases h
  rfl

/-- Settles O9, format by format; a word of more than 8 bits is read as an EV word (log 9). -/
theorem placedWordRunsNext : Obligations.PlacedWordRunsNext := by
  intro s nbits w i hv h
  refine ⟨fun hn => ?_, fun hn => ?_⟩
  · rcases Nat.eq_zero_or_pos nbits with rfl | hpos
    · exact step_placeEvent hv h
    · have hfmt : formatOf nbits = .ms := by rw [formatOf, if_neg (by omega), if_pos hn]
      rw [hfmt] at h
      simp only [State.withFetchWord, hfmt]
      exact step_placeMs hv h
  · have hfmt : formatOf nbits = .ev := by rw [formatOf, if_neg (by omega), if_neg (by omega)]
    rw [hfmt] at h
    simp only [State.withFetchWord, hfmt]
    exact step_placeEv hv h

/-! ### The level of the line -/

theorem levelAfter_dirOf (b : Bool) : levelAfter (dirOf b) = b := by
  cases b <;> rfl

/-- The main loop's step completes where `lidx` is below K, and leaves the line level alone. -/
theorem runMain_completes {u : State} (hlidx : u.lidx < u.cfg.k) (rest : List Event) :
    ∃ t, u.runMain rest = .next t ∧ t.pending = rest ∧ t.irPrev = u.irPrev := by
  obtain ⟨t, ht⟩ := exec_completes (s := { u with pending := rest }) hlidx u.mainOp
  have hframe := frame_of_mainStep (mainStep_of_next (s := { u with pending := rest }) ht)
  exact ⟨t, ht, hframe.pending_eq, hframe.same .irPrev (by decide)⟩

/-- A run that ends in the main loop's step ends with the line level recorded before it. -/
theorem run_ends_with_main {s u : State} {n : Nat} {level : Bool} {rest : List Event}
    (hrun : runSteps n s = u.runMain rest) (hn : n ≤ 3) (hlidx : u.lidx < u.cfg.k) (hlevel : u.irPrev = level) :
    ∃ n t, n ≤ 3 ∧ runSteps n s = .next t ∧ t.pending = rest ∧ t.irPrev = level := by
  obtain ⟨t, ht, hpending, hkept⟩ := runMain_completes hlidx rest
  exact ⟨n, t, hn, hrun.trans ht, hpending, hkept.trans hlevel⟩

/-- One clock without reset, in its five forms (40 R104). -/
theorem clock_ends_at_irIn {s : State} {tickEn irIn : Bool} {rest : List Event} (hv : s.cfg.valid)
    (hlidx : s.lidx < s.cfg.k) (hp : s.pending = .clock false tickEn irIn :: rest) :
    ∃ n t, n ≤ 3 ∧ runSteps n s = .next t ∧ t.pending = rest ∧ t.irPrev = irIn := by
  obtain ⟨-, hcaptured, hignoredTick, hignored, htick, hmain⟩ :=
    clockComposesAtomicSteps s false tickEn irIn rest hv hp
  by_cases hstill : irIn = s.irPrev
  · cases tickEn with
    | true => exact run_ends_with_main (htick rfl hstill rfl) (by decide) hlidx hstill.symm
    | false => exact run_ends_with_main (hmain rfl hstill rfl) (by decide) hlidx hstill.symm
  · have hlevel := levelAfter_dirOf irIn
    by_cases hd : dirOf irIn = s.armed
    · have hrun := hcaptured rfl hstill hd
      rw [exec_edge] at hrun
      exact run_ends_with_main hrun (by decide) (by simpa [State.captured] using hlidx)
        ((decoderEffect_irPrev _ _).trans hlevel)
    · cases tickEn with
      | true => exact run_ends_with_main (hignoredTick rfl hstill hd rfl) (by decide) hlidx hlevel
      | false => exact run_ends_with_main (hignored rfl hstill hd rfl) (by decide) hlidx hlevel

/-- A transition that changes the level is captured or ignored, and records its level either way. -/
theorem line_changes_level {s : State} {d : Direction} {rest : List Event} (hv : s.cfg.valid)
    (hp : s.pending = .line d :: rest) (hlevel : levelAfter d ≠ s.irPrev) :
    ∃ t, step s = .next t ∧ t.pending = rest ∧ t.irPrev = levelAfter d := by
  by_cases hd : d = s.armed
  · refine ⟨_, (step_on_captured hv hp hd hlevel).trans (exec_edge _ _ _), ?_, ?_⟩ <;> simp [State.captured]
  · exact ⟨_, (step_on_ignored hv hp hd).trans (exec_edgeIgnored _ d), rfl, rfl⟩

/-- A tick beside a repeat of the level the line holds is that tick (log 6). -/
theorem step_of_together_repeat {s : State} {d : Direction} {o : TickOutcome} {rest : List Event}
    (hp : s.pending = .together d o :: rest) (hrep : s.repeats (.line d) = true) :
    step s = step { s with pending := .tick :: rest } := by
  have ha : nextAtom s = (.tick, rest) := by
    rw [nextAtom_of_cons hp rfl]
    simp [expand, hrep]
  have ha' : nextAtom { s with pending := .tick :: rest } = (.tick, rest) :=
    nextAtom_of_cons (e := .tick) rfl rfl
  simp only [step, fetch, ha, ha']
  rfl

/-- Settles O60: the clauses are one clock, a change of level, and the three forms of a repeat. -/
theorem lineTransitionsAlternate : Obligations.LineTransitionsAlternate := by
  intro s rest
  refine ⟨?_, ?_, ?_, ?_, ?_⟩
  · rintro tickEn irIn ⟨hv, -, -, hlidx, -⟩ hp
    exact clock_ends_at_irIn hv hlidx hp
  · rintro d ⟨hv, -⟩ hp hlevel
    exact line_changes_level hv hp hlevel
  · intro d hv hp hlevel hd
    rw [step_on_ignored hv hp hd, exec_edgeIgnored, hlevel]
  · intro d hp hlevel hd
    exact step_of_repeat hp (repeats_line.mpr ⟨hd, hlevel⟩)
  · intro d o hp hlevel hd
    exact step_of_together_repeat hp (repeats_line.mpr ⟨hd, hlevel⟩)

/-! ## The invariants

The five invariants: each is kept by the decoder's operations, by the main loop's steps and so by every step,
and the state after reset meets it (10_state R38; 41 R119; 42 R139; 60 R175). -/

/-! ### What every step keeps -/

/-- A step leads from `P`, which does not read the coming events, to `Q` if every form of `StepTo` does; an invariant is
the case of `Q` = `P`. -/
theorem step_leads {P Q : State → Prop} (hevents : ∀ (s : State) (p : List Event), P s → P { s with pending := p })
    (hto : ∀ s t : State, s.cfg.valid → P s → StepTo s t → Q t) (s t : State) (hs : P s) (h : step s = .next t) :
    Q t := by
  obtain ⟨hv, hst⟩ := stepTo_of_next h
  exact hto { s with pending := (nextAtom s).2 } t hv (hevents s _ hs) hst

theorem frame_of_decoderStep {d : Direction} {n : Nat} {s u : State} (h : DecoderStep d n s u) :
    Frame decoderRegs s u := by
  cases h with
  | ldrArm => exact (frame_armed s _).mono (by decide)
  | ldrMark => exact (frame_dstate_armed s _ _).mono (by decide)
  | ldrSpace => exact (frame_dstate_armed_bitIndex s _ _ _).mono (by decide)
  | rptSpace => exact (frame_refl s).mono (by decide)
  | bitMark => exact (frame_armed s _).mono (by decide)
  | bit b => exact (frame_shiftIn b s).mono (by decide)
  | published => exact (frame_decoderReset_ready s _).mono (by decide)
  | dropped => exact (frame_decoderReset s).mono (by decide)
  | mismatch => exact (frame_decoderReset s).mono (by decide)

theorem store_of_decoderStep {d : Direction} {n : Nat} {s u : State} (h : DecoderStep d n s u) : u.store = s.store := by
  cases h <;> rfl

/-! ### Widths and shapes -/

/-- The edge side writes only the two counters among the registers `WellFormed` speaks of. -/
theorem wellFormed_of_counters {s t : State} (h : s.WellFormed) (hframe : Frame edgeRegs s t)
    (hstore : t.store = s.store) (htick : t.tick < 2 ^ s.cfg.tickBits) (hltimer : t.ltimer ≤ s.ltimer) : t.WellFormed := by
  obtain ⟨hv, -, hl, hi, hk, hc, hm⟩ := h
  have hcfg := hframe.cfg_eq
  have hlidx : t.lidx = s.lidx := hframe.same .lidx (by decide)
  have hkeys : t.keyMap = s.keyMap := hframe.same .keyMap (by decide)
  have hch : t.ch = s.ch := hframe.same .ch (by decide)
  rw [State.WellFormed, hcfg, hlidx, hkeys, hch, hstore]
  exact ⟨hv, htick, Nat.lt_of_le_of_lt hltimer hl, hi, hk, hc, hm⟩

theorem wellFormed_resetWith {c : Config} {m : Memory} (hv : c.valid) (hm : Memory.wf m) (p : List Event) :
    (State.resetWith c m p).WellFormed := by
  obtain ⟨⟨hk, -⟩, -⟩ := id hv
  exact ⟨hv, Nat.two_pow_pos _, Nat.two_pow_pos _, hk, List.length_replicate, List.length_replicate, hm⟩

theorem mainStep_keeps_wellFormed {s t : State} (h : s.WellFormed) (hst : MainStep s t) : t.WellFormed := by
  obtain ⟨hv, ht, hl, hi, hk, hc, hm⟩ := h
  obtain ⟨⟨hk1, hk255⟩, -, -, -, -, -, -, hblink, hconfirm⟩ := id hv
  cases hst with
  | uninitialized => exact ⟨hv, ht, hl, hk1, hk, hc, hm⟩
  | initialized => exact ⟨hv, ht, hl, hi, hk, hc, hm⟩
  | loaded => exact ⟨hv, ht, hl, hi, readKeys_length _ _, hc, hm⟩
  | begun => exact ⟨hv, ht, hblink, hi, hk, List.length_set.trans hc, hm⟩
  | stored _ _ _ hslot =>
    exact ⟨hv, ht, hconfirm, hi, List.length_set.trans hk, hc, memWrite_wf hm (by omega) _⟩
  | blinked => exact ⟨hv, ht, hblink, hi, hk, hc, hm⟩
  | waited => exact ⟨hv, ht, hl, hi, hk, hc, hm⟩
  | held => exact ⟨hv, ht, hl, hi, hk, hc, hm⟩
  | nextChannel _ _ hmore => exact ⟨hv, ht, hl, hmore, hk, List.length_set.trans hc, hm⟩
  | lastChannel => exact ⟨hv, ht, hl, hk1, hk, List.length_set.trans hc, hm⟩
  | committed => exact ⟨hv, ht, hl, hi, hk, hc, memWrite_wf hm (by decide) _⟩
  | idle => exact ⟨hv, ht, hl, hi, hk, hc, hm⟩
  | relearn => exact ⟨hv, ht, hl, hk1, hk, hc, hm⟩
  | allOff => exact ⟨hv, ht, hl, hi, hk, (List.length_map _).trans hc, hm⟩
  | dispatched => exact ⟨hv, ht, hl, hi, hk, List.length_mapIdx.trans hc, hm⟩

/-- Settles O17: the edge side touches the counters alone, the main loop keeps each bound it reads. -/
theorem stepKeepsWellFormed : Obligations.StepKeepsWellFormed := by
  refine step_leads (fun _ _ h => h) fun s t hv h hst => ?_
  obtain ⟨-, htick, -, -, -, -, hm⟩ := id h
  cases hst with
  | tick =>
    exact wellFormed_of_counters h ((frame_counters s _ _).mono (by decide)) rfl (Nat.mod_lt _ (Nat.two_pow_pos _))
      (Nat.sub_le _ _)
  | reset => exact wellFormed_resetWith hv hm _
  | ignored d => exact wellFormed_of_counters h ((frame_irPrev s _).mono (by decide)) rfl htick le_rfl
  | edge tickInside hd =>
    have hkeep := frame_of_decoderStep hd
    have hcounter : t.tick = 0 := hkeep.same .tick (by decide)
    have hltimer : t.ltimer = if tickInside then s.ltimer - 1 else s.ltimer := hkeep.same .ltimer (by decide)
    refine wellFormed_of_counters h ((frame_captured s _ tickInside).trans (hkeep.mono (by decide)))
      (store_of_decoderStep (s := s.captured s.armed tickInside) hd) (hcounter ▸ Nat.two_pow_pos _) ?_
    rw [hltimer]
    split_ifs
    · exact Nat.sub_le _ _
    · exact le_rfl
  | main hmain => exact mainStep_keeps_wellFormed h hmain

/-! ### The decoder's phase -/

/-- `DecoderPhase` speaks of three registers. -/
theorem decoderPhase_congr {s t : State} {changed : List Reg} (hframe : Frame changed s t)
    (hregs : ∀ r ∈ [Reg.dstate, .armed, .bitIndex], r ∉ changed) (h : s.DecoderPhase) : t.DecoderPhase := by
  have hds : t.dstate = s.dstate := hframe.same .dstate (hregs _ (by decide))
  have harmed : t.armed = s.armed := hframe.same .armed (hregs _ (by decide))
  have hbit : t.bitIndex = s.bitIndex := hframe.same .bitIndex (hregs _ (by decide))
  rwa [State.DecoderPhase, hds, harmed, hbit]

theorem decoderPhase_decoderReset (s : State) : (decoderReset s).DecoderPhase := by
  simp [State.DecoderPhase]

theorem decoderPhase_shiftIn (b : Bool) {s : State} (hs : s.dstate = .receivingData) : (shiftIn b s).DecoderPhase := by
  have hlast : s.bitIndex.toNat = 31 → s.bitIndex + 1#5 = 0#5 := by
    intro h
    apply BitVec.eq_of_toNat_eq
    exact (bitIndex_succ_toNat s.bitIndex).trans (if_pos h)
  by_cases h31 : s.bitIndex.toNat = 31
  · simp [State.DecoderPhase, h31, hlast h31]
  · simp [State.DecoderPhase, h31, hs]

theorem decoderStep_keeps_decoderPhase {d : Direction} {n : Nat} {s u : State} (h : s.DecoderPhase)
    (hst : DecoderStep d n s u) : u.DecoderPhase := by
  obtain ⟨hlow, hstop, hbit⟩ := h
  cases hst with
  | ldrArm hs => exact ⟨by simp [hs], fun _ => rfl, hbit⟩
  | ldrMark hs => exact ⟨fun _ => rfl, by simp, fun _ => hbit (by simp [hs])⟩
  | ldrSpace => exact ⟨by simp, fun _ => rfl, fun _ => rfl⟩
  | rptSpace => exact ⟨hlow, hstop, hbit⟩
  | bitMark hs => exact ⟨fun _ => rfl, by simp [hs], hbit⟩
  | bit b hs => exact decoderPhase_shiftIn b hs
  | published => exact decoderPhase_decoderReset _
  | dropped => exact decoderPhase_decoderReset _
  | mismatch => exact decoderPhase_decoderReset _

/-- Settles O18. -/
theorem stepKeepsDecoderPhase : Obligations.StepKeepsDecoderPhase := by
  refine step_leads (fun _ _ h => h) fun s t _ h hst => ?_
  cases hst with
  | tick => exact h
  | reset => simp [State.DecoderPhase]
  | ignored => exact h
  | edge tickInside hd => exact decoderStep_keeps_decoderPhase (s := s.captured s.armed tickInside) h hd
  | main hmain => exact decoderPhase_congr (frame_of_mainStep hmain) (by decide) h

/-! ### The bytes of the frame -/

/-- A snapshot register after a bit is shifted in: it holds byte `j` of the new frame if that byte is finished, provided
it held it before where it was finished before (41 R118). -/
theorem snapshot_eq {f : FrameWord} {i j : Nat} {old : Byte} (b : Bool) (hi : i < 32) (hj : j < 4)
    (hold : 8 * j + 8 ≤ i → old = frameByte f j) (hfinished : 8 * j + 7 ≤ i) :
    (if i = 8 * j + 7 then frameByte (setFrameBit f i b) j else old) = frameByte (setFrameBit f i b) j := by
  split_ifs with hlast
  · rfl
  · have hbefore : 8 * j + 8 ≤ i := by omega
    rw [frameByte_setFrameBit f i j b hi hj (.inr hbefore)]
    exact hold hbefore

theorem frameBytes_congr {s t : State} {changed : List Reg} (hframe : Frame changed s t)
    (hregs : ∀ r ∈ [Reg.dstate, .bitIndex, .frame, .fAddr, .fAddrN, .fCmd, .fCmdN], r ∉ changed) (h : s.FrameBytes) :
    t.FrameBytes := by
  have hds : t.dstate = s.dstate := hframe.same .dstate (hregs _ (by decide))
  have hbit : t.bitIndex = s.bitIndex := hframe.same .bitIndex (hregs _ (by decide))
  have hword : t.frame = s.frame := hframe.same .frame (hregs _ (by decide))
  have hfa : t.fAddr = s.fAddr := hframe.same .fAddr (hregs _ (by decide))
  have hfan : t.fAddrN = s.fAddrN := hframe.same .fAddrN (hregs _ (by decide))
  have hfc : t.fCmd = s.fCmd := hframe.same .fCmd (hregs _ (by decide))
  have hfcn : t.fCmdN = s.fCmdN := hframe.same .fCmdN (hregs _ (by decide))
  rwa [State.FrameBytes, hds, hbit, hword, hfa, hfan, hfc, hfcn]

/-- A decoder that is neither receiving nor at the stop mark holds no frame. -/
theorem frameBytes_of_dstate {s : State} (hdata : s.dstate ≠ .receivingData) (hstop : s.dstate ≠ .awaitStop) :
    s.FrameBytes :=
  ⟨fun h => absurd h hdata, fun h => absurd h hstop⟩

theorem frameBytes_shiftIn (b : Bool) {s : State} (hs : s.dstate = .receivingData) (h : s.FrameBytes) :
    (shiftIn b s).FrameBytes := by
  obtain ⟨hfa, hfan, hfc⟩ := h.1 hs
  have hi : s.bitIndex.toNat < 32 := s.bitIndex.isLt
  have hnext := bitIndex_succ_toNat s.bitIndex
  have haddr := snapshot_eq (j := 0) b hi (by decide) hfa
  have haddrN := snapshot_eq (j := 1) b hi (by decide) hfan
  have hcmd := snapshot_eq (j := 2) b hi (by decide) hfc
  have hcmdN := snapshot_eq (f := s.frame) (j := 3) (old := s.fCmdN) b hi (by decide) (fun h => by omega)
  refine ⟨fun hdata => ?_, fun hstop => ?_⟩
  · have h31 : s.bitIndex.toNat ≠ 31 := by
      intro h31
      simp [h31] at hdata
    rw [if_neg h31] at hnext
    rw [shiftIn_bitIndex, hnext]
    exact ⟨fun hn => haddr (by omega), fun hn => haddrN (by omega), fun hn => hcmd (by omega)⟩
  · have h31 : s.bitIndex.toNat = 31 := by
      by_contra h31
      simp [h31, hs] at hstop
    exact ⟨haddr (by omega), haddrN (by omega), hcmd (by omega), hcmdN (by omega)⟩

theorem decoderStep_keeps_frameBytes {d : Direction} {n : Nat} {s u : State} (h : s.FrameBytes)
    (hst : DecoderStep d n s u) : u.FrameBytes := by
  cases hst with
  | ldrArm => exact h
  | ldrMark => exact frameBytes_of_dstate (by simp) (by simp)
  | ldrSpace => simp [State.FrameBytes]
  | rptSpace => exact h
  | bitMark => exact h
  | bit b hs => exact frameBytes_shiftIn b hs h
  | published => exact frameBytes_of_dstate (by simp) (by simp)
  | dropped => exact frameBytes_of_dstate (by simp) (by simp)
  | mismatch => exact frameBytes_of_dstate (by simp) (by simp)

/-- Settles O19: only `SHIFT_IN` writes the frame, and it takes each byte in the step that finishes it. -/
theorem stepKeepsFrameBytes : Obligations.StepKeepsFrameBytes := by
  refine step_leads (fun _ _ h => h) fun s t _ h hst => ?_
  cases hst with
  | tick => exact h
  | reset => exact frameBytes_of_dstate (by simp) (by simp)
  | ignored => exact h
  | edge tickInside hd => exact decoderStep_keeps_frameBytes (s := s.captured s.armed tickInside) h hd
  | main hmain => exact frameBytes_congr (frame_of_mainStep hmain) (by decide) h

/-! ### The status indicator -/

theorem statusShown_congr {s t : State} (hm : t.mstate = s.mstate) (hstatus : t.statusMode = s.statusMode)
    (h : s.StatusShown) : t.StatusShown := by
  rwa [State.StatusShown, hm, hstatus]

theorem mainStep_keeps_statusShown {s t : State} (h : s.StatusShown) (hst : MainStep s t) : t.StatusShown := by
  cases hst with
  | uninitialized => trivial
  | initialized hm =>
    simp only [State.StatusShown, hm] at h
    exact h
  | loaded => rfl
  | begun => rfl
  | stored => rfl
  | blinked => exact h
  | waited => exact h
  | held => exact h
  | nextChannel => trivial
  | lastChannel hm =>
    simp only [State.StatusShown, hm] at h
    exact h
  | committed => rfl
  | idle => exact h
  | relearn => trivial
  | allOff => exact h
  | dispatched => exact h

/-- Settles O20: only the main loop and reset write `status_mode` and `mstate`. -/
theorem stepKeepsStatusShown : Obligations.StepKeepsStatusShown := by
  refine step_leads (fun _ _ h => h) fun s t _ h hst => ?_
  cases hst with
  | tick => exact h
  | reset => rfl
  | ignored => exact h
  | edge tickInside hd =>
    have hkeep := frame_of_decoderStep hd
    exact statusShown_congr (hkeep.same .mstate (by decide)) (hkeep.same .statusMode (by decide)) h
  | main hmain => exact mainStep_keeps_statusShown h hmain

/-! ### KeyMap, store and channels in a learning pass -/

theorem learnedSoFar_congr {s t : State} {changed : List Reg} (hframe : Frame changed s t)
    (hregs : ∀ r ∈ [Reg.mstate, .lidx, .keyMap, .ch], r ∉ changed) (hstore : t.store = s.store)
    (h : s.LearnedSoFar) : t.LearnedSoFar := by
  have hm : t.mstate = s.mstate := hframe.same .mstate (hregs _ (by decide))
  have hlidx : t.lidx = s.lidx := hframe.same .lidx (hregs _ (by decide))
  have hkeys : t.keyMap = s.keyMap := hframe.same .keyMap (hregs _ (by decide))
  have hch : t.ch = s.ch := hframe.same .ch (hregs _ (by decide))
  have hcfg := hframe.cfg_eq
  simpa only [State.LearnedSoFar, State.Stored, State.Off, hm, hlidx, hkeys, hch, hcfg, hstore] using h

/-- Lighting or clearing the channel in learning leaves the channels before it. -/
theorem off_set {s t : State} {n : Nat} {level : Bool} (h : s.Off n) (hch : t.ch = s.ch.set n level) : t.Off n := by
  intro i hi
  rw [hch, List.getElem?_set_ne (by omega)]
  exact h i hi

/-- The channel in learning is off too once its indicator is cleared. -/
theorem off_succ {s t : State} {n : Nat} (hn : n < s.ch.length) (h : s.Off n) (hch : t.ch = s.ch.set n false) :
    t.Off (n + 1) := by
  intro i hi
  rcases Nat.lt_succ_iff_lt_or_eq.mp hi with hlt | rfl
  · exact off_set h hch i hlt
  · rw [hch, List.getElem?_set_self hn]

/-- One more entry agrees with its slot once both hold the command (42 R134). -/
theorem stored_succ {s t : State} {n : Nat} {v : Byte} (hm : Memory.wf s.store) (hn : n < s.keyMap.length)
    (h : s.Stored n) (hkeys : t.keyMap = s.keyMap.set n v) (hstore : t.store = memWrite s.store (slotOf n) v) :
    t.Stored (n + 1) := by
  intro i hi
  rw [hkeys, hstore]
  rcases Nat.lt_succ_iff_lt_or_eq.mp hi with hlt | rfl
  · have hslot : slotOf i ≠ slotOf n := fun h => absurd (Nat.succ.inj h) (by omega)
    rw [List.getElem?_set_ne (by omega), memRead_memWrite_ne _ _ hslot]
    exact h i hlt
  · rw [List.getElem?_set_self hn, memRead_memWrite_same hm]

/-- The sentinel's slot is none of the keys' slots (42 R138). -/
theorem stored_sentinel {s t : State} {n : Nat} {v : Byte} (h : s.Stored n) (hkeys : t.keyMap = s.keyMap)
    (hstore : t.store = memWrite s.store 0 v) : t.Stored n := by
  intro i hi
  have hslot : slotOf i ≠ 0 := Nat.succ_ne_zero i
  rw [hkeys, hstore, memRead_memWrite_ne _ _ hslot]
  exact h i hi

section LearnedSoFar

variable {s : State}

theorem learnedSoFar_of_learnBegin (hm : s.mstate = .learnBegin) :
    s.LearnedSoFar ↔ s.Stored s.lidx ∧ s.Off s.lidx := by
  simp only [State.LearnedSoFar, hm]

theorem learnedSoFar_of_learnWait (hm : s.mstate = .learnWait) :
    s.LearnedSoFar ↔ s.Stored s.lidx ∧ s.Off s.lidx := by
  simp only [State.LearnedSoFar, hm]

theorem learnedSoFar_of_learnHold (hm : s.mstate = .learnHold) :
    s.LearnedSoFar ↔ s.Stored (s.lidx + 1) ∧ s.Off s.lidx := by
  simp only [State.LearnedSoFar, hm]

theorem learnedSoFar_of_commit (hm : s.mstate = .commit) : s.LearnedSoFar ↔ s.Stored s.cfg.k ∧ s.Off s.cfg.k := by
  simp only [State.LearnedSoFar, hm]

theorem learnedSoFar_of_normal (hm : s.mstate = .normal) : s.LearnedSoFar ↔ s.Stored s.cfg.k := by
  simp only [State.LearnedSoFar, hm]

/-- In Normal mode the channels are no part of it: a command may switch them (43 R152, R153). -/
theorem learnedSoFar_of_consumed (hm : s.mstate = .normal) (levels : List Bool) (h : s.LearnedSoFar) :
    State.LearnedSoFar { s with ch := levels, ready := false } := by
  have hm' : State.mstate { s with ch := levels, ready := false } = .normal := hm
  exact (learnedSoFar_of_normal hm').mpr ((learnedSoFar_of_normal hm).mp h)

end LearnedSoFar

theorem mainStep_keeps_learnedSoFar {s t : State} (hwf : s.WellFormed) (h : s.LearnedSoFar) (hst : MainStep s t) :
    t.LearnedSoFar := by
  obtain ⟨-, -, -, hi, hk, hc, hmem⟩ := hwf
  cases hst with
  | uninitialized => exact ⟨fun i hi => absurd hi (Nat.not_lt_zero i), fun i hi => absurd hi (Nat.not_lt_zero i)⟩
  | initialized => trivial
  | loaded => exact fun i hi => readKeys_getElem? _ _ i hi
  | begun hm =>
    obtain ⟨hstored, hoff⟩ := (learnedSoFar_of_learnBegin hm).mp h
    exact ⟨hstored, off_set hoff rfl⟩
  | stored hm =>
    obtain ⟨hstored, hoff⟩ := (learnedSoFar_of_learnWait hm).mp h
    exact ⟨stored_succ hmem (hk ▸ hi) hstored rfl rfl, hoff⟩
  | blinked => exact h
  | waited => exact h
  | held => exact h
  | nextChannel hm =>
    obtain ⟨hstored, hoff⟩ := (learnedSoFar_of_learnHold hm).mp h
    exact ⟨hstored, off_succ (hc ▸ hi) hoff rfl⟩
  | lastChannel hm _ hlast =>
    obtain ⟨hstored, hoff⟩ := (learnedSoFar_of_learnHold hm).mp h
    have hall : s.cfg.k = s.lidx + 1 := by omega
    exact ⟨hall ▸ hstored, hall ▸ off_succ (hc ▸ hi) hoff rfl⟩
  | committed hm =>
    obtain ⟨hstored, -⟩ := (learnedSoFar_of_commit hm).mp h
    exact stored_sentinel hstored rfl rfl
  | idle => exact h
  | relearn => exact ⟨fun i hi => absurd hi (Nat.not_lt_zero i), fun i hi => absurd hi (Nat.not_lt_zero i)⟩
  | allOff hm => exact learnedSoFar_of_consumed hm _ h
  | dispatched hm => exact learnedSoFar_of_consumed hm _ h

/-- Settles O21: the edge side writes none of the registers concerned and no slot. -/
theorem stepKeepsLearnedSoFar : Obligations.StepKeepsLearnedSoFar := by
  intro s t hwf h
  refine step_leads (P := fun s => s.WellFormed ∧ s.LearnedSoFar) (fun _ _ h => h) (fun s t _ h hst => ?_) s t ⟨hwf, h⟩
  obtain ⟨hwf, h⟩ := h
  cases hst with
  | tick => exact h
  | reset => trivial
  | ignored => exact h
  | edge tickInside hd =>
    exact learnedSoFar_congr (s := s.captured s.armed tickInside) (frame_of_decoderStep hd) (by decide)
      (store_of_decoderStep hd) h
  | main hmain => exact mainStep_keeps_learnedSoFar hwf h hmain

/-! ### The state after reset -/

/-- Settles O22: with nothing received, nothing learned and nothing shown, the invariants hold of the values listed. -/
theorem resetMeetsInvariants : Obligations.ResetMeetsInvariants := by
  refine ⟨fun c m p hv hm => ⟨wellFormed_resetWith hv hm p, ?_, ?_, rfl, trivial⟩, rfl, by decide⟩
  · simp [State.DecoderPhase]
  · exact frameBytes_of_dstate (by simp) (by simp)

/-! ## Rules of the whole machine

Rules of the whole machine: which step may change `ready`, the sentinel and the mode, what the error conditions
leave, and what the decoder and the main loop read. -/

/-! ### What the edge side leaves -/

/-- A transition is captured by the decoder or only recorded (40 R101, R102). -/
theorem stepFrom_edge {s t : State} {d : Direction} {tickInside : Bool} (h : StepFrom s (.edge d tickInside) t) :
    DecoderStep s.armed s.tick (s.captured s.armed tickInside) t ∨ t = { s with irPrev := levelAfter d } := by
  by_cases hd : d = s.armed
  · simp only [StepFrom, if_pos hd] at h
    exact .inl h
  · simp only [StepFrom, if_neg hd] at h
    exact .inr h

/-- A decoder operation writes `ready` only to publish a frame it has checked (41 R119). -/
theorem ready_of_decoderStep {d : Direction} {n : Nat} {s u : State} (h : DecoderStep d n s u) :
    u.ready = s.ready ∨
      s.dstate = .awaitStop ∧ d = .rising ∧ inwin s.cfg n .mk = true ∧
        checksumValid s.fAddr s.fAddrN s.fCmd s.fCmdN = true ∧ u = decoderReset { s with ready := true } := by
  cases h with
  | published hs hd hwin hvalid => exact .inr ⟨hs, hd, hwin, hvalid, rfl⟩
  | _ => exact .inl rfl

theorem decoderStep_keeps_ready {d : Direction} {n : Nat} {s u : State} (h : DecoderStep d n s u)
    (hset : s.ready = true) : u.ready = true := by
  rcases ready_of_decoderStep h with hsame | ⟨-, -, -, -, rfl⟩
  · exact hsame.trans hset
  · rfl

/-- A tick or a transition writes the edge side's registers and no store slot, and never clears `ready`. -/
theorem edgeSide_of_stepFrom {s t : State} {a : Atom} (h : StepFrom s a t) (hmain : a ≠ .main) (hreset : a ≠ .reset) :
    Frame edgeRegs s t ∧ t.store = s.store ∧ (s.ready = true → t.ready = true) := by
  cases a with
  | tick =>
    subst h
    exact ⟨(frame_counters s _ _).mono (by decide), rfl, id⟩
  | main => exact absurd rfl hmain
  | reset => exact absurd rfl hreset
  | edge d tickInside =>
    rcases stepFrom_edge h with hd | rfl
    · exact ⟨(frame_captured s _ tickInside).trans ((frame_of_decoderStep hd).mono (by decide)),
        store_of_decoderStep (s := s.captured s.armed tickInside) hd,
        decoderStep_keeps_ready (s := s.captured s.armed tickInside) hd⟩
    · exact ⟨(frame_irPrev s _).mono (by decide), rfl, id⟩

/-- What a step did, by the agent that took it: the main loop, reset, or the edge side. -/
theorem step_by_agent {s t : State} (h : step s = .next t) :
    (nextAtom s).1 = .main ∧ MainStep { s with pending := (nextAtom s).2 } t ∨
      (nextAtom s).1 = .reset ∧ t = State.resetWith s.cfg s.store (nextAtom s).2 ∨
      Frame edgeRegs { s with pending := (nextAtom s).2 } t ∧ t.store = s.store ∧
        (s.ready = true → t.ready = true) := by
  obtain ⟨-, hst⟩ := stepFrom_of_next h
  by_cases hmain : (nextAtom s).1 = .main
  · rw [hmain] at hst
    exact .inl ⟨hmain, hst⟩
  · by_cases hreset : (nextAtom s).1 = .reset
    · rw [hreset] at hst
      exact .inr (.inl ⟨hreset, hst⟩)
    · exact .inr (.inr (edgeSide_of_stepFrom hst hmain hreset))

/-! ### `ready` -/

/-- A main-loop step writes `ready` only to clear it: at the end of a confirmation hold and in Normal mode. -/
theorem ready_of_mainStep {s t : State} (h : MainStep s t) :
    t.ready = s.ready ∨ t.ready = false ∧ (s.mstate = .learnHold ∧ s.ltimer = 0 ∨ s.mstate = .normal) := by
  cases h with
  | nextChannel hm hover => exact .inr ⟨rfl, .inl ⟨hm, hover⟩⟩
  | lastChannel hm hover => exact .inr ⟨rfl, .inl ⟨hm, hover⟩⟩
  | relearn hm => exact .inr ⟨rfl, .inr hm⟩
  | allOff hm => exact .inr ⟨rfl, .inr hm⟩
  | dispatched hm => exact .inr ⟨rfl, .inr hm⟩
  | _ => exact .inl rfl

/-- Settles O24: of everything a step can do, publishing alone sets the flag. -/
theorem readySetOnlyByValidStopMark : Obligations.ReadySetOnlyByValidStopMark := by
  intro s t hstep hclear hset
  obtain ⟨-, hst⟩ := stepTo_of_next hstep
  cases hst with
  | tick => exact absurd (hset.symm.trans hclear) (by decide)
  | reset => exact absurd hset (by simp)
  | ignored => exact absurd (hset.symm.trans hclear) (by decide)
  | edge tickInside hd =>
    rcases ready_of_decoderStep hd with hsame | ⟨hds, hrising, hwin, hvalid, rfl⟩
    · exact absurd (hset.symm.trans (hsame.trans hclear)) (by decide)
    · obtain ⟨hmin, hmax⟩ := (inwin_iff _ _ _).mp hwin
      obtain ⟨haddr, hcmd⟩ := (checksumValid_iff _ _ _ _).mp hvalid
      exact ⟨hds, hrising, hmin, hmax, haddr, hcmd, rfl, rfl, rfl, rfl⟩
  | main hmain =>
    rcases ready_of_mainStep hmain with hsame | ⟨hcleared, -⟩
    · exact absurd (hset.symm.trans (hsame.trans hclear)) (by decide)
    · exact absurd (hset.symm.trans hcleared) (by decide)

/-- Settles O25: the edge side only ever sets the flag, so a step that clears it was a reset or the main loop's. -/
theorem readyClearedOnlyByConsumers : Obligations.ReadyClearedOnlyByConsumers := by
  intro s t hstep hset hclear
  rcases step_by_agent hstep with ⟨ha, hmain⟩ | ⟨ha, -⟩ | ⟨-, -, hkeeps⟩
  · rcases ready_of_mainStep hmain with hsame | ⟨-, hrow⟩
    · exact absurd (hset.symm.trans (hsame.symm.trans hclear)) (by decide)
    · exact .inr ⟨ha, hrow⟩
  · exact .inl ha
  · exact absurd ((hkeeps hset).symm.trans hclear) (by decide)

/-! ### The sentinel and the mode -/

theorem sentinel_of_mainStep {s t : State} (hm : Memory.wf s.store) (h : MainStep s t) :
    memRead t.store 0 = memRead s.store 0 ∨ s.mstate = .commit ∧ memRead t.store 0 = Config.sentInit := by
  cases h with
  | committed hcommit => exact .inr ⟨hcommit, memRead_memWrite_same hm 0 _⟩
  | stored => exact .inl (memRead_memWrite_ne _ _ (Nat.succ_ne_zero _).symm)
  | _ => exact .inl rfl

/-- Settles O26. -/
theorem sentinelWrittenOnlyByCommit : Obligations.SentinelWrittenOnlyByCommit := by
  intro s t hm hstep hchanged
  rcases step_by_agent hstep with ⟨ha, hmain⟩ | ⟨-, rfl⟩ | ⟨-, hstore, -⟩
  · exact ⟨ha, (sentinel_of_mainStep (s := { s with pending := (nextAtom s).2 }) hm hmain).resolve_left hchanged⟩
  · exact absurd rfl hchanged
  · exact absurd (congrArg (memRead · 0) hstore) hchanged

theorem mode_of_mainStep {s t : State} (h : MainStep s t) :
    modeOf t.mstate = modeOf s.mstate ∨
      s.mstate = .boot ∧ memRead s.store 0 = Config.sentUninit ∧ t.mstate = .learnBegin ∨
      s.mstate = .load ∧ t.mstate = .normal ∨
      s.mstate = .commit ∧ t.mstate = .normal ∨
      s.mstate = .normal ∧ s.ready = true ∧ s.fCmd = s.cfg.relearnCode ∧ t.mstate = .learnBegin := by
  cases h with
  | uninitialized hm hff => exact .inr (.inl ⟨hm, hff, rfl⟩)
  | loaded hm => exact .inr (.inr (.inl ⟨hm, rfl⟩))
  | committed hm => exact .inr (.inr (.inr (.inl ⟨hm, rfl⟩)))
  | relearn hm hready hcode => exact .inr (.inr (.inr (.inr ⟨hm, hready, hcode, rfl⟩)))
  | initialized hm => exact .inl (by rw [hm]; rfl)
  | begun hm => exact .inl (by rw [hm]; rfl)
  | stored hm => exact .inl (by rw [hm]; rfl)
  | nextChannel hm => exact .inl (by rw [hm]; rfl)
  | lastChannel hm => exact .inl (by rw [hm]; rfl)
  | _ => exact .inl rfl

/-- Settles O27. -/
theorem modeChangesOnlyAsListed : Obligations.ModeChangesOnlyAsListed := by
  intro s t hstep
  rcases step_by_agent hstep with ⟨ha, hmain⟩ | ⟨ha, rfl⟩ | ⟨hframe, -, -⟩
  · exact (mode_of_mainStep hmain).imp_right fun hlisted => .inr ⟨ha, hlisted⟩
  · exact .inr (.inl ⟨ha, rfl⟩)
  · exact .inl (congrArg modeOf (hframe.same .mstate (by decide)))

/-! ### The three conditions -/

/-- What a timing mismatch or a failed checksum leaves (60 R160, R161). -/
def LocalReset (s t : State) : Prop :=
  t.ports = s.ports ∧ StoreFrame [] s t ∧ t.dstate = .awaitLeaderHigh ∧ t.armed = .falling ∧ t.bitIndex = 0 ∧
    Frame [.dstate, .armed, .bitIndex, .tick, .irPrev, .ltimer] s t

/-- The decoder's reset is local, also after the counters and the line level of an `EDGE`. -/
theorem localReset_decoderReset (s : State) (n l : Nat) (b : Bool) :
    LocalReset s (decoderReset { s with tick := n, irPrev := b, ltimer := l }) :=
  ⟨rfl, fun _ _ => rfl, rfl, rfl, rfl, by simp [Frame]⟩

/-- A decoder operation that raises a condition does nothing but the decoder's reset. -/
theorem decoderEffect_of_condition {s : State} {op : DecoderOp} {e : Condition} (h : decoderCondition s op = some e) :
    decoderEffect op s = decoderReset s ∧ e ≠ .uninitializedStore := by
  cases op with
  | mismatch =>
    cases h
    exact ⟨rfl, by decide⟩
  | stopMark =>
    simp only [decoderCondition] at h
    split_ifs at h with hvalid
    cases h
    simp [decoderEffect, readyAfterStop, hvalid]
  | _ => cases h

/-- An `EDGE` whose decoder operation raises a condition. -/
theorem localReset_of_edge {s : State} {d : Direction} {tickInside : Bool} {e : Condition}
    (h : decoderCondition s s.decoderOp = some e) :
    (∃ t, exec (.edge d tickInside) s = .next t ∧ LocalReset s t) ∧ e ≠ .uninitializedStore := by
  obtain ⟨heffect, he⟩ := decoderEffect_of_condition (s := s.captured d tickInside) h
  exact ⟨⟨_, exec_edge d tickInside s, heffect ▸ localReset_decoderReset s _ _ _⟩, he⟩

/-- An operation that raises `TimingMismatch` or `ChecksumFailure` is one that ends in the decoder's reset. -/
theorem localReset_of_raised {i : Instr} {s : State} {e : Condition} (h : raised s i = some e) :
    (∃ t, exec i s = .next t ∧ LocalReset s t) ∧ e ≠ .uninitializedStore ∨
      i = .bootSelect ∧ memRead s.store sentinelSlot = Config.sentUninit ∧ e = .uninitializedStore := by
  cases i with
  | edge d tickInside => exact .inl (localReset_of_edge h)
  | stopMark n =>
    obtain ⟨heffect, he⟩ := decoderEffect_of_condition (s := s) (op := .stopMark) h
    exact .inl ⟨⟨_, exec_decoderInstr .awaitStop .rising n .stopMark s,
      heffect ▸ localReset_decoderReset s s.tick s.ltimer s.irPrev⟩, he⟩
  | mismatch ds d n =>
    obtain ⟨-, he⟩ := decoderEffect_of_condition (s := s) (op := .mismatch) h
    exact .inl ⟨⟨_, exec_mismatch n s ds d, localReset_decoderReset s s.tick s.ltimer s.irPrev⟩, he⟩
  | bootSelect =>
    simp only [raised] at h
    split_ifs at h with hff
    cases h
    exact .inr ⟨rfl, hff, rfl⟩
  | _ => cases h

/-- Settles O29: two of the conditions are the decoder's reset, the third the routing of `BOOT_SELECT`. -/
theorem conditionsAreLocalAndSilent : Obligations.ConditionsAreLocalAndSilent := by
  intro i s e h
  rcases localReset_of_raised h with ⟨⟨t, ht, hports, hstore, hds, harmed, hbit, hframe⟩, he⟩ | ⟨rfl, hff, rfl⟩
  · refine ⟨t, ht, hports, hstore, ?_⟩
    cases e with
    | timingMismatch => exact ⟨hds, harmed, hbit, hframe⟩
    | checksumFailure => exact ⟨hds, harmed, hbit, hframe⟩
    | uninitializedStore => exact absurd rfl he
  · refine ⟨_, exec_bootSelect s, rfl, fun _ _ => rfl, if_pos hff, if_pos hff, ?_⟩
    exact (frame_lidx_mstate s _ _).mono (by decide)

/-! ### What the decoder reads -/

/-- A decoder operation is a function of the nine registers (41 R110). -/
theorem sameDecoder_decoderEffect (op : DecoderOp) {s s' : State} (h : SameDecoder s s') :
    SameDecoder (decoderEffect op s) (decoderEffect op s') := by
  obtain ⟨hcfg, hds, harmed, hframe, hbit, hfa, hfan, hfc, hfcn, hready⟩ := h
  cases op with
  | ldrArm => exact ⟨hcfg, hds, rfl, hframe, hbit, hfa, hfan, hfc, hfcn, hready⟩
  | ldrMark => exact ⟨hcfg, rfl, rfl, hframe, hbit, hfa, hfan, hfc, hfcn, hready⟩
  | ldrSpace => exact ⟨hcfg, rfl, rfl, hframe, rfl, hfa, hfan, hfc, hfcn, hready⟩
  | rptSpace => exact ⟨hcfg, hds, harmed, hframe, hbit, hfa, hfan, hfc, hfcn, hready⟩
  | bitMark => exact ⟨hcfg, hds, rfl, hframe, hbit, hfa, hfan, hfc, hfcn, hready⟩
  | bitZero => simp [SameDecoder, decoderEffect, hcfg, hds, hframe, hbit, hfa, hfan, hfc, hfcn, hready]
  | bitOne => simp [SameDecoder, decoderEffect, hcfg, hds, hframe, hbit, hfa, hfan, hfc, hfcn, hready]
  | stopMark => simp [SameDecoder, decoderEffect, hcfg, hframe, hfa, hfan, hfc, hfcn, hready]
  | mismatch => exact ⟨hcfg, rfl, rfl, hframe, rfl, hfa, hfan, hfc, hfcn, hready⟩

/-- Settles O30: both events select the same operation, which both run from states that agree. -/
theorem decoderReadsOnlyItsRegisters : Obligations.DecoderReadsOnlyItsRegisters := by
  intro s s' d tickInside h htick
  have hcaptured : SameDecoder (s.captured d tickInside) (s'.captured d tickInside) := h
  obtain ⟨hcfg, hds, harmed, -⟩ := h
  have hop : s'.decoderOp = s.decoderOp := by
    simp only [State.decoderOp, hcfg, hds, harmed, htick]
  exact ⟨_, _, exec_edge d tickInside s, exec_edge d tickInside s', hop ▸ sameDecoder_decoderEffect _ hcaptured⟩

/-- Settles O33: `EDGE` is the decoder operation in the state it hands over, and that operation keeps the rest. -/
theorem edgeRunsOneDecoderOperation : Obligations.EdgeRunsOneDecoderOperation := by
  intro s tickInside
  refine ⟨exec_edge_eq_exec s.armed tickInside s, _, exec_edge s.armed tickInside s, ?_, ?_, ?_, ?_, ?_, ?_⟩
  · exact decoderEffect_tick _ _
  · exact decoderEffect_irPrev _ _
  · exact decoderEffect_ltimer _ _
  · exact fun hready => decoderEffect_keeps_ready _ hready
  · exact (frame_edge _ s _ tickInside).mono (by decide)
  · exact fun a _ => congrArg (memRead · a) (decoderEffect_store _ _)

/-! ### What the main loop reads -/

/-- The two states agree on what the main loop reads after the operation, if both complete; else both fault alike. -/
def SameOutcome (r r' : Result) : Prop :=
  (∀ t, r = .next t → ∃ t', r' = .next t' ∧ SameMainLoop t t') ∧ ∀ e, r = .fault e → r' = .fault e

theorem sameOutcome_next {t t' : State} (h : SameMainLoop t t') : SameOutcome (.next t) (.next t') := by
  refine ⟨fun u hu => ?_, fun e he => ?_⟩
  · cases hu
    exact ⟨t', rfl, h⟩
  · cases he

theorem mainOp_congr {s s' : State} (h : SameMainLoop s s') : s'.mainOp = s.mainOp := by
  obtain ⟨hcfg, -, -, hm, -, hready, hcmd, -, -, hltimer, -⟩ := h
  simp only [State.mainOp, hcfg, hm, hready, hcmd, hltimer]

/-- A main-loop operation is a function of what the main loop reads. -/
theorem sameOutcome_exec {s s' : State} {op : Instr} (hrow : MainRow s op) (h : SameMainLoop s s') :
    SameOutcome (exec op s) (exec op s') := by
  obtain ⟨hcfg, hkeys, hch, hm, hlidx, hready, hcmd, hstatus, hphase, hltimer, hstore⟩ := h
  cases op with
  | bootSelect =>
    rw [exec_bootSelect, exec_bootSelect]
    exact sameOutcome_next (by simp [SameMainLoop, *])
  | keyLoad => exact sameOutcome_next (by simp [SameMainLoop, *])
  | learnBegin => exact sameOutcome_next (by simp [SameMainLoop, *])
  | learnStore =>
    rcases Nat.lt_or_ge s.lidx s.cfg.k with hlt | hge
    · rw [exec_learnStore_of_lt s hlt, exec_learnStore_of_lt s' (by rwa [hlidx, hcfg])]
      exact sameOutcome_next (by simp [SameMainLoop, State.learned, *])
    · rw [exec_learnStore_of_ge s hge, exec_learnStore_of_ge s' (by rwa [hlidx, hcfg])]
      exact ⟨fun _ ht => (by cases ht), fun _ he => hlidx ▸ he⟩
  | learnWait =>
    rw [exec_learnWait, exec_learnWait]
    exact sameOutcome_next (by simp [SameMainLoop, *])
  | learnHold => exact sameOutcome_next (by simp [SameMainLoop, *])
  | learnNext =>
    rw [exec_learnNext, exec_learnNext]
    exact sameOutcome_next (by simp [SameMainLoop, *])
  | learnCommit =>
    rw [exec_learnCommit, exec_learnCommit]
    exact sameOutcome_next (by simp [SameMainLoop, *])
  | pollIdle => exact sameOutcome_next (by simp [SameMainLoop, *])
  | relearn => exact sameOutcome_next (by simp [SameMainLoop, *])
  | allOff => exact sameOutcome_next (by simp [SameMainLoop, *])
  | dispatch => exact sameOutcome_next (by simp [SameMainLoop, *])
  | _ => exact hrow.elim

/-- Settles O31. -/
theorem mainLoopReadsOnlyItsRegisters : Obligations.MainLoopReadsOnlyItsRegisters :=
  fun s _ h => ⟨mainOp_congr h, sameOutcome_exec (mainRow_mainOp s) h⟩

/-! ## The store, the dispatch and the boot

The remaining single operations and the boot: the repeat space (41 R114), the two operations that write the store
(42 R134, R138), a command dispatched twice (43 R153), and the two steps after reset (70 R191). -/

/-- Settles O39: the configuration's validity keeps the leader space's window, tested first, apart. -/
theorem repeatSpaceWritesNothing : Obligations.RepeatSpaceWritesNothing := by
  intro s t
  exact ⟨fun hv hrp => select_of_tableRow (op := .rptSpace) hv ⟨rfl, rfl, hrp⟩, s, exec_rptSpace t s, frame_refl s,
    fun _ _ => rfl⟩

/-! ### The operations that write the store -/

/-- A store that differs by one write reads as before at every other slot. -/
theorem storeFrame_of_memWrite {s t : State} {a : Nat} {v : Byte} (h : t.store = memWrite s.store a v) :
    StoreFrame [a] s t := by
  intro x hx
  rw [h, memRead_memWrite_ne _ _ fun hxa => hx (List.mem_singleton.mpr hxa)]

/-- Settles O48: any command is written, 0xFF too, which a canonical store holds by leaving the slot unlisted. -/
theorem learnStoreWritesThrough : Obligations.LearnStoreWritesThrough := by
  rintro s ⟨-, -, -, hlidx, hkeys, -, hstore⟩
  exact ⟨mainOp_eq_iff s .learnStore, _, exec_learnStore_of_lt s hlidx,
    getElem?_set_eq_ite_of_lt (hkeys ▸ hlidx) s.fCmd, memRead_memWrite_same hstore _ _, rfl, rfl, rfl,
    frame_learned s, storeFrame_of_memWrite rfl⟩

/-- Settles O49. -/
theorem learnStoreAboveKFaults : Obligations.LearnStoreAboveKFaults := exec_learnStore_of_ge

/-- Settles O53. -/
theorem learnCommitWritesSentinel : Obligations.LearnCommitWritesSentinel := by
  intro s hstore
  exact ⟨mainOp_eq_iff s .learnCommit, _, exec_learnCommit s, memRead_memWrite_same hstore _ _, rfl, rfl,
    frame_statusMode_mstate s _ _ _, storeFrame_of_memWrite rfl⟩

/-! ### A command dispatched twice -/

/-- Inverting the same entries twice gives the list back. -/
theorem mapIdx_toggle_twice (p : Nat → Prop) [DecidablePred p] (levels : List Bool) :
    (levels.mapIdx fun i level => if p i then !level else level).mapIdx (fun i level => if p i then !level else level) =
      levels := by
  refine List.ext_getElem? fun i => ?_
  by_cases hp : p i <;> simp [List.getElem?_mapIdx, hp, Function.comp_def]

/-- Settles O59: the second dispatch compares the same KeyMap with the same command. -/
theorem dispatchTwiceRestoresChannels : Obligations.DispatchTwiceRestoresChannels := by
  intro s
  exact ⟨_, _, exec_dispatch s, exec_dispatch _, mapIdx_toggle_twice (fun i => s.keyMap[i]? = some s.fCmd) s.ch⟩

/-! ### The two steps after reset -/

theorem exec_bootSelect_of_initialized {s : State} (h : memRead s.store sentinelSlot ≠ Config.sentUninit) :
    exec .bootSelect s = .next { s with mstate := .load } := by
  simp only [exec_bootSelect, if_neg h]

theorem exec_bootSelect_of_uninitialized {s : State} (h : memRead s.store sentinelSlot = Config.sentUninit) :
    exec .bootSelect s = .next { s with lidx := 0, mstate := .learnBegin } := by
  simp only [exec_bootSelect, if_pos h]

section Boot

variable {c : Config} {m : Memory} {rest : List Event}

/-- On an initialized store the second step loads the keys. -/
theorem boot_of_initialized (hv : c.valid) (h : memRead m sentinelSlot ≠ Config.sentUninit) :
    runSteps 2 (State.resetWith c m (.main :: .main :: rest)) = .next
      { State.resetWith c m rest with keyMap := readKeys m c.k, statusMode := .solid, mstate := .normal } := by
  have hfirst : step (State.resetWith c m (.main :: .main :: rest)) = .next
      { State.resetWith c m (.main :: rest) with mstate := .load } := by
    rw [step_on_main (rest := .main :: rest) (by exact hv) rfl, mainOp_of_boot rfl]
    exact exec_bootSelect_of_initialized h
  rw [runSteps_succ_of_next 1 hfirst, runSteps_one, step_on_main (rest := rest) (by exact hv) rfl,
    mainOp_of_load rfl, exec_keyLoad]
  rfl

/-- On an uninitialized store the second step begins learning at channel 0. -/
theorem boot_of_uninitialized (hv : c.valid) (h : memRead m sentinelSlot = Config.sentUninit) :
    runSteps 2 (State.resetWith c m (.main :: .main :: rest)) = .next
      { State.resetWith c m rest with
        ch := (List.replicate c.k false).set 0 true
        statusMode := .blink
        blinkPhase := true
        ltimer := c.blinkHalfTicks
        mstate := .learnWait } := by
  have hfirst : step (State.resetWith c m (.main :: .main :: rest)) = .next
      { State.resetWith c m (.main :: rest) with lidx := 0, mstate := .learnBegin } := by
    rw [step_on_main (rest := .main :: rest) (by exact hv) rfl, mainOp_of_boot rfl]
    exact exec_bootSelect_of_uninitialized h
  rw [runSteps_succ_of_next 1 hfirst, runSteps_one, step_on_main (rest := rest) (by exact hv) rfl,
    mainOp_of_learnBegin rfl, exec_learnBegin]
  rfl

end Boot

/-- Settles O54. -/
theorem bootTakesTwoMainSteps : Obligations.BootTakesTwoMainSteps := by
  intro c m rest hv
  by_cases h : memRead m sentinelSlot = Config.sentUninit
  · refine ⟨_, boot_of_uninitialized hv h, rfl, rfl, fun _ => rfl, fun hne => absurd h hne,
      fun _ => ⟨rfl, rfl, fun j hj => ?_⟩⟩
    have hlit := getElem?_set_eq_ite_of_lt (l := List.replicate c.k false) (by simpa using Nat.zero_lt_of_lt hj) true j
    refine hlit.trans ?_
    split_ifs with hj0
    · simp [hj0]
    · simp [hj0, hj]
  · refine ⟨_, boot_of_initialized hv h, rfl, rfl, fun _ => rfl, fun _ => ⟨rfl, fun j hj => ?_⟩,
      fun hff => absurd hff h⟩
    exact ⟨readKeys_getElem? m c.k j hj, List.getElem?_replicate_of_lt hj⟩

/-! ## The reception of a frame

The reception of a whole frame (41 R121): one transition after a number of ticks, the leader, the 32 bits by
induction, and the stop mark. `Reaches` carries the run and what it keeps, `Receiving` the decoder between two bits. -/

/-! ### Runs over a list of events -/

/-- A run that takes the events `es`, one step each, leaves `rest` pending and writes the edge side's registers only. -/
structure Reaches (es rest : List Event) (s t : State) : Prop where
  run : runSteps es.length s = .next t
  pending : t.pending = rest
  keeps : ∀ r ∉ edgeRegs, r.Same s t
  cfg : t.cfg = s.cfg
  store : t.store = s.store

theorem Reaches.append {es es' rest : List Event} {s t u : State} (h : Reaches es (es' ++ rest) s t)
    (h' : Reaches es' rest t u) : Reaches (es ++ es') rest s u where
  run := by rw [List.length_append, runSteps_add_of_next _ h.run, h'.run]
  pending := h'.pending
  keeps r hr := (h.keeps r hr).trans (h'.keeps r hr)
  cfg := h'.cfg.trans h.cfg
  store := h'.store.trans h.store

/-- The run leaves every register outside the edge side's. -/
theorem Reaches.frame {es rest : List Event} {s t : State} (h : Reaches es rest s t) :
    Frame edgeRegs { s with pending := rest } t :=
  frame_iff.mpr ⟨fun r hr => by cases r <;> exact h.keeps _ hr, h.cfg, h.pending⟩

/-! ### One transition after its interval -/

/-- The state a captured transition hands to the decoder after a train of ticks that left `l` in the delay counter. -/
def State.atEdge (s : State) (d : Direction) (l : Nat) (rest : List Event) : State :=
  { s with tick := 0, irPrev := levelAfter d, ltimer := l, pending := rest }

/-- `n` ticks and a transition of the armed polarity run the decoder operation of the interval (30_encoding R90). -/
theorem reaches_pulse {s : State} {n : Nat} {d : Direction} {op : DecoderOp} {rest : List Event} (hv : s.cfg.valid)
    (ht : s.tick < 2 ^ s.cfg.tickBits) (hd : d = s.armed) (hlevel : levelAfter d ≠ s.irPrev)
    (hop : selectDecoderOp s.cfg s.dstate d ((s.tick + n) % 2 ^ s.cfg.tickBits) = op)
    (hp : s.pending = pulse n d ++ rest) :
    Reaches (pulse n d) rest s (decoderEffect op (s.atEdge d (s.ltimer - n) rest)) := by
  have hedge : step (s.ticked n (.line d :: rest)) = .next (decoderEffect op (s.atEdge d (s.ltimer - n) rest)) := by
    rw [step_on_captured (s := s.ticked n (.line d :: rest)) hv rfl hd hlevel, exec_edge, ← hop, hd]
    rfl
  have hframe : Frame edgeRegs { s with pending := rest } (decoderEffect op (s.atEdge d (s.ltimer - n) rest)) :=
    Frame.trans (t := s.atEdge d (s.ltimer - n) rest) (by simp [Frame, edgeRegs, State.atEdge])
      ((frame_decoderEffect op _).mono (by decide))
  have hp' : s.pending = List.replicate n .tick ++ (.line d :: rest) := by rw [hp, pulse, List.append_assoc]; rfl
  refine ⟨?_, hframe.pending_eq, fun r hr => ?_, hframe.cfg_eq, decoderEffect_store _ _⟩
  · have hlen : (pulse n d).length = n + 1 := by simp [pulse]
    rw [hlen, runSteps_add_of_next 1 (run_ticks hv ht hp'), runSteps_one, hedge]
  · have hsame := hframe.same r hr
    cases r <;> exact hsame

/-- The same from a counter at 0: the interval is the number of ticks. -/
theorem reaches_symbol {s : State} {n : Nat} {d : Direction} {op : DecoderOp} {rest : List Event}
    (hp : s.pending = pulse n d ++ rest) (hv : s.cfg.valid) (ht : s.tick = 0) (hn : n < 2 ^ s.cfg.tickBits)
    (hd : d = s.armed) (hlevel : levelAfter d ≠ s.irPrev) (hrow : TableRow s.cfg s.dstate d n op) :
    Reaches (pulse n d) rest s (decoderEffect op (s.atEdge d (s.ltimer - n) rest)) := by
  refine reaches_pulse hv (ht ▸ Nat.two_pow_pos _) hd hlevel ?_ hp
  rw [ht, Nat.zero_add, Nat.mod_eq_of_lt hn]
  exact select_of_tableRow hv hrow

theorem fall_changes_risen : levelAfter .falling ≠ levelAfter .rising := by decide

theorem rise_changes_fallen : levelAfter .rising ≠ levelAfter .falling := by decide

/-! ### The bits -/

/-- The decoder after `i` bits of the word `w`, before the mark of the next bit or of the stop. -/
structure Receiving (w : FrameWord) (i : Nat) (ready : Bool) (s : State) : Prop where
  dstate : s.dstate = if i = 32 then .awaitStop else .receivingData
  armed : s.armed = .rising
  irPrev : s.irPrev = false
  tick : s.tick = 0
  bitIndex : s.bitIndex.toNat = i % 32
  bits : ∀ j < i, s.frame.getLsbD j = w.getLsbD j
  bytes : s.FrameBytes
  ready : s.ready = ready

/-- The word's 32 marks and spaces are inside their windows and inside the counter's range. -/
def BitTimings (c : Config) (w : FrameWord) (mark space : Nat → Nat) : Prop :=
  ∀ i < 32, inwin c (mark i) .mk = true ∧ inwin c (space i) (if w.getLsbD i then .s1 else .s0) = true ∧
    mark i < 2 ^ c.tickBits ∧ space i < 2 ^ c.tickBits

/-- The operation of a data bit's space, by the bit. -/
def bitOp (b : Bool) : DecoderOp := if b then .bitOne else .bitZero

theorem decoderEffect_bitOp (b : Bool) (s : State) : decoderEffect (bitOp b) s = shiftIn b s := by
  cases b <;> rfl

theorem tableRow_bitOp {c : Config} {n : Nat} {b : Bool} (h : inwin c n (if b then .s1 else .s0) = true) :
    TableRow c .receivingData .falling n (bitOp b) := by
  cases b <;> exact ⟨rfl, rfl, (inwin_iff _ _ _).mp h⟩

/-- The transitions of bit `i`: the Rising edge that ends its mark and the Falling edge that ends its space. -/
def bitEvents (mark space : Nat → Nat) (i : Nat) : List Event := pulse (mark i) .rising ++ pulse (space i) .falling

/-- Shifting in the next bit of the word. -/
theorem receiving_shiftIn {w : FrameWord} {i l : Nat} {ready : Bool} {s : State} {rest : List Event} (hi : i < 32)
    (h : Receiving w i ready s) :
    Receiving w (i + 1) ready
      (shiftIn (w.getLsbD i)
        { s with tick := 0, irPrev := false, ltimer := l, pending := rest, armed := .falling }) where
  dstate := by
    have hbit := h.bitIndex
    rw [Nat.mod_eq_of_lt hi] at hbit
    have hds := h.dstate
    rw [if_neg (by omega)] at hds
    simp only [shiftIn_dstate, hbit, hds, Nat.reduceEqDiff]
  armed := rfl
  irPrev := rfl
  tick := rfl
  bitIndex := by
    have hbit := h.bitIndex
    rw [Nat.mod_eq_of_lt hi] at hbit
    rw [shiftIn_bitIndex, bitIndex_succ_toNat, hbit]
    split_ifs <;> omega
  bits j hj := by
    have hbit := h.bitIndex
    rw [Nat.mod_eq_of_lt hi] at hbit
    rw [shiftIn_frame, getLsbD_setFrameBit _ _ _ _ (by simpa [hbit] using hi) (by omega)]
    split_ifs with hlast
    · rw [hlast, hbit]
    · exact h.bits j (by simp only [hbit] at hlast; omega)
  bytes := by
    have hds := h.dstate
    rw [if_neg (by omega)] at hds
    exact frameBytes_shiftIn _ hds h.bytes
  ready := h.ready

theorem reaches_bit {w : FrameWord} {i : Nat} {mark space : Nat → Nat} {ready : Bool} {s : State} {rest : List Event}
    (hv : s.cfg.valid) (ht : BitTimings s.cfg w mark space) (hi : i < 32) (h : Receiving w i ready s)
    (hp : s.pending = bitEvents mark space i ++ rest) :
    ∃ t, Reaches (bitEvents mark space i) rest s t ∧ Receiving w (i + 1) ready t := by
  obtain ⟨hmark, hspace, hmarkLt, hspaceLt⟩ := ht i hi
  have hds := h.dstate
  rw [if_neg (by omega)] at hds
  rw [bitEvents, List.append_assoc] at hp
  have hmarkRun := reaches_symbol (op := .bitMark) hp hv h.tick hmarkLt h.armed.symm (by simp [h.irPrev, levelAfter])
    ⟨hds, rfl, (inwin_iff _ _ _).mp hmark⟩
  have hspaceRun := reaches_symbol (op := bitOp (w.getLsbD i)) hmarkRun.pending hv rfl hspaceLt rfl fall_changes_risen
    (hds ▸ tableRow_bitOp hspace)
  refine ⟨_, hmarkRun.append hspaceRun, ?_⟩
  rw [decoderEffect_bitOp]
  exact receiving_shiftIn (s := s) hi h

/-- All bits from the `i`-th on. -/
theorem reaches_bits {w : FrameWord} {mark space : Nat → Nat} {ready : Bool} {rest : List Event} (k : Nat) {i : Nat}
    {s : State} (hik : i + k = 32) (hv : s.cfg.valid) (ht : BitTimings s.cfg w mark space) (h : Receiving w i ready s)
    (hp : s.pending = (List.range' i k).flatMap (bitEvents mark space) ++ rest) :
    ∃ t, Reaches ((List.range' i k).flatMap (bitEvents mark space)) rest s t ∧ Receiving w 32 ready t := by
  induction k generalizing i s with
  | zero =>
    obtain rfl : i = 32 := hik
    exact ⟨s, ⟨rfl, hp, fun r _ => by cases r <;> rfl, rfl, rfl⟩, h⟩
  | succ k ih =>
    rw [List.range'_succ, List.flatMap_cons] at hp ⊢
    rw [List.append_assoc] at hp
    obtain ⟨u, hbit, hnext⟩ := reaches_bit hv ht (by omega) h hp
    obtain ⟨t, hbits, hdone⟩ := ih (by omega) (hbit.cfg ▸ hv) (hbit.cfg ▸ ht) hnext hbit.pending
    exact ⟨t, hbit.append hbits, hdone⟩

/-! ### The leader and the stop mark -/

/-- The opening edge, the leader mark and the leader space begin a frame. -/
theorem reaches_leader {w : FrameWord} {t0 leaderMark leaderSpace : Nat} {s : State} {rest : List Event}
    (hv : s.cfg.valid) (ht : s.tick < 2 ^ s.cfg.tickBits) (hds : s.dstate = .awaitLeaderHigh)
    (harmed : s.armed = .falling) (hlevel : s.irPrev = true) (hmark : inwin s.cfg leaderMark .lh = true) (hspace : inwin s.cfg leaderSpace .ll = true)
    (hspaceLt : leaderSpace < 2 ^ s.cfg.tickBits)
    (hp : s.pending = pulse t0 .falling ++ (pulse leaderMark .rising ++ (pulse leaderSpace .falling ++ rest))) :
    ∃ t, Reaches (pulse t0 .falling ++ pulse leaderMark .rising ++ pulse leaderSpace .falling) rest s t ∧
      Receiving w 0 s.ready t := by
  obtain ⟨hmarkMin, hmarkMax⟩ := (inwin_iff _ _ _).mp hmark
  have hmarkLt : leaderMark < 2 ^ s.cfg.tickBits := by
    obtain ⟨-, -, -, -, hlh, -⟩ := id hv
    omega
  have hopen := reaches_pulse (op := .ldrArm) hv ht harmed.symm (by simp [hlevel, levelAfter])
    (hds ▸ select_awaitLeaderHigh_falling _ _) hp
  have hmarkRun := reaches_symbol (op := .ldrMark) hopen.pending hv rfl hmarkLt rfl rise_changes_fallen
    ⟨hds, rfl, hmarkMin, hmarkMax⟩
  have hspaceRun := reaches_symbol (op := .ldrSpace) hmarkRun.pending hv rfl hspaceLt rfl fall_changes_risen
    ⟨rfl, rfl, (inwin_iff _ _ _).mp hspace⟩
  refine ⟨_, (hopen.append hmarkRun).append hspaceRun, rfl, rfl, rfl, rfl, rfl, ?_, ?_, rfl⟩
  · exact fun j hj => absurd hj (Nat.not_lt_zero j)
  · simp [State.FrameBytes, decoderEffect]

/-- The stop mark publishes the word received. -/
theorem reaches_stop {w : FrameWord} {stop : Nat} {ready : Bool} {s : State} {rest : List Event} (hv : s.cfg.valid)
    (h : Receiving w 32 ready s) (hwin : inwin s.cfg stop .mk = true) (hlt : stop < 2 ^ s.cfg.tickBits)
    (hp : s.pending = pulse stop .rising ++ rest) :
    ∃ t, Reaches (pulse stop .rising) rest s t ∧
      t.dstate = .awaitLeaderHigh ∧ t.armed = .falling ∧ t.bitIndex = 0#5 ∧ t.tick = 0 ∧ t.irPrev = true ∧
      t.frame = w ∧
      t.fAddr = frameByte w 0 ∧ t.fAddrN = frameByte w 1 ∧ t.fCmd = frameByte w 2 ∧ t.fCmdN = frameByte w 3 ∧
      (t.ready = true ↔ ready = true ∨ (t.fAddr ^^^ t.fAddrN = 0xFF#8 ∧ t.fCmd ^^^ t.fCmdN = 0xFF#8)) := by
  have hword : s.frame = w := BitVec.eq_of_getLsbD_eq h.bits
  obtain ⟨hfa, hfan, hfc, hfcn⟩ := h.bytes.2 h.dstate
  rw [hword] at hfa hfan hfc hfcn
  refine ⟨_, reaches_symbol (op := .stopMark) hp hv h.tick hlt h.armed.symm (by simp [h.irPrev, levelAfter])
    ⟨h.dstate, rfl, (inwin_iff _ _ _).mp hwin⟩, rfl, rfl, rfl, rfl, rfl, hword, hfa, hfan, hfc, hfcn, ?_⟩
  show readyAfterStop s.ready s.fAddr s.fAddrN s.fCmd s.fCmdN = true ↔
    ready = true ∨ (s.fAddr ^^^ s.fAddrN = 0xFF#8 ∧ s.fCmd ^^^ s.fCmdN = 0xFF#8)
  rw [readyAfterStop_eq, h.ready]
  split_ifs with hvalid
  · simp [hvalid]
  · simp [hvalid]

/-- Settles O44: the leader, the 32 bits and the stop mark, one run after the other. -/
theorem wellFormedFrameIsDecoded : Obligations.WellFormedFrameIsDecoded := by
  intro s w t0 leaderMark leaderSpace mark space stop rest hv ht hds harmed hlevel hlm hls hmark hspace hstop hlsLt
    hbitsLt hstopLt hp
  have htimings : BitTimings s.cfg w mark space :=
    fun i hi => ⟨hmark i hi, hspace i hi, (hbitsLt i hi).1, (hbitsLt i hi).2⟩
  have hevents : frameEvents t0 leaderMark leaderSpace mark space stop =
      (pulse t0 .falling ++ pulse leaderMark .rising ++ pulse leaderSpace .falling) ++
        (List.range' 0 32).flatMap (bitEvents mark space) ++ pulse stop .rising := by
    rw [frameEvents, List.range_eq_range']
    rfl
  rw [hevents] at hp ⊢
  obtain ⟨u, hleader, hbegun⟩ := reaches_leader (w := w) hv ht hds harmed hlevel hlm hls hlsLt
    (by simpa only [List.append_assoc] using hp)
  obtain ⟨v, hbits, hdata⟩ := reaches_bits 32 rfl (hleader.cfg ▸ hv) (hleader.cfg ▸ htimings) hbegun hleader.pending
  have hcfg := hbits.cfg.trans hleader.cfg
  obtain ⟨t, hstopRun, hds', harmed', hbit', htick', hlevel', hword, hfa, hfan, hfc, hfcn, hready⟩ :=
    reaches_stop (hcfg ▸ hv) hdata (hcfg ▸ hstop) (hcfg ▸ hstopLt) hbits.pending
  have hrun := (hleader.append hbits).append hstopRun
  exact ⟨t, hrun.run, hds', harmed', hbit', htick', hlevel', hword, hfa, hfan, hfc, hfcn, hready,
    hrun.frame.mono (by decide), fun a _ => congrArg (memRead · a) hrun.store⟩

end Sys2Proof.Machine
